-- ==== Sys2Proof/Word.lean ====
section
/-! DEFINITION. The words of the SCE: bytes, command words and response words (spec/00_scope.md R6, R8).
Addition of bytes is Lean's addition of 8-bit vectors, that is, addition of naturals reduced mod 256 (R9). -/

namespace Sys2Proof

/-- A byte: an unsigned integer in 0..255 (00_scope.md R8). -/
abbrev Byte := BitVec 8

/-- A command word, `CMDW` = 16 bits (00_scope.md R6, 30_encoding.md R80). -/
abbrev CmdWord := BitVec 16

/-- A response word, `RSPW` = 16 bits (00_scope.md R6, 30_encoding.md R80). -/
abbrev RspWord := BitVec 16

end Sys2Proof
end

