-- ==== Sys2Proof/Syntax.lean ====
section
/-! DEFINITION. The commands, one constructor per row of spec/opcode_table.json, and the reasons a word is illegal. -/

namespace Sys2Proof

/-- The commands of the SCE (30_encoding.md R84). `RDR` has one constructor per register number, as the opcode
table has one row per register number (10_state.md R30). -/
inductive Instr where
  /-- `CLR`: start a new transform call (40_context_and_key.md R111). -/
  | clr
  /-- `KEYB b`: append the key byte `b` (40_context_and_key.md R115). -/
  | keyb (b : Byte)
  /-- `KSA`: run the key schedule (41_key_scheduler.md R131). -/
  | ksa
  /-- `NEXT`: produce the next keystream byte (42_keystream_generator.md R151). -/
  | next
  /-- `XORB m`: transform the message byte `m` (43_cipher_transform.md R171). -/
  | xorb (m : Byte)
  /-- `RDS a`: read `S[a]` (44_observation.md R201). -/
  | rds (a : Byte)
  /-- `RDR STATUS`, register number 0 (44_observation.md R205). -/
  | rdrStatus
  /-- `RDR I`, register number 1 (44_observation.md R205). -/
  | rdrI
  /-- `RDR J`, register number 2 (44_observation.md R205). -/
  | rdrJ
  /-- `RDR KLENL`, register number 3 (44_observation.md R205). -/
  | rdrKlenl
  /-- `RDR KLENH`, register number 4 (44_observation.md R205). -/
  | rdrKlenh
  deriving DecidableEq, Repr

/-- Why a word is no command: the three causes of `IllegalCommand` (60_exceptions.md R220). -/
inductive IllegalWord where
  /-- `OP` is 0x00 or 0x08..0xFF (30_encoding.md R87). -/
  | undefinedOpcode
  /-- A command of format Z with `ARG` other than 0x00 (30_encoding.md R88). -/
  | operandNotZero
  /-- `RDR` with a register number above 4 (30_encoding.md R90). -/
  | registerNumber
  deriving DecidableEq, Repr

end Sys2Proof
end

