-- ==== Sys2Proof/WellFormed.lean ====
section
/-! DEFINITION. The form a command word must have (30_encoding.md R82), said from its format alone and apart from
the decoder. A term of `Instr` has no ill-formed operand: its operands are bytes, and every byte is accepted
(30_encoding.md R82, R85), so the checks here are about words. -/

namespace Sys2Proof

/-- The three formats (30_encoding.md R82). -/
inductive Format where
  /-- No operand: `ARG` must be 0x00. -/
  | z
  /-- Byte operand: any `ARG`. -/
  | b
  /-- Register select: `ARG` must be 0..4. -/
  | r
  deriving DecidableEq, Repr

/-- The format as a function of `OP` alone; none for an `OP` that is no opcode (30_encoding.md R82, R87). -/
def formatOf (op : Nat) : Option Format :=
  if op = 1 ∨ op = 3 ∨ op = 4 then some .z
  else if op = 2 ∨ op = 5 ∨ op = 6 then some .b
  else if op = 7 then some .r
  else none

/-- The operand check of a format (30_encoding.md R82). -/
def Format.admits : Format → Nat → Bool
  | .z, arg => arg == 0
  | .b, _ => true
  | .r, arg => arg ≤ 4

/-- A word is a command of its format: `OP` is bits 15..8, `ARG` bits 7..0 (30_encoding.md R81, R82). -/
def wordWellFormed (w : CmdWord) : Bool :=
  match formatOf (w.toNat / 256) with
  | none => false
  | some f => f.admits (w.toNat % 256)

end Sys2Proof
end

