-- ==== Sys2Proof/Decode.lean ====
section
/-! DEFINITION. The decoder, total on the 65536 words and rejecting by name (30_encoding.md R86 to R90), the encoder
(R81, R84), and each command's decoding shown on a word written out from the spec's encoding of it. -/

namespace Sys2Proof

/-- `OP = cmd[15:8]` (30_encoding.md R81). -/
def opOf (w : CmdWord) : Byte := w.extractLsb' 8 8

/-- `ARG = cmd[7:0]`, the operand, an unsigned byte as it stands (30_encoding.md R81, R85). -/
def argOf (w : CmdWord) : Byte := w.extractLsb' 0 8

/-- The word `{op, arg}` (00_scope.md R8, 30_encoding.md R81). -/
def wordOf (op arg : Byte) : CmdWord := op ++ arg

/-- Format Z: the command only when `ARG` is 0x00 (30_encoding.md R88). -/
def decodeNoOperand (arg : Byte) (i : Instr) : Except IllegalWord Instr :=
  if arg = 0x00#8 then .ok i else .error .operandNotZero

/-- Format R: `RDR` with a register number 0..4 (30_encoding.md R90, 10_state.md R30). -/
def decodeRegister (arg : Byte) : Except IllegalWord Instr :=
  if arg = 0#8 then .ok .rdrStatus
  else if arg = 1#8 then .ok .rdrI
  else if arg = 2#8 then .ok .rdrJ
  else if arg = 3#8 then .ok .rdrKlenl
  else if arg = 4#8 then .ok .rdrKlenh
  else .error .registerNumber

/-- `decode` (30_encoding.md R86): a function of the word alone, the same in every phase. -/
def decode (w : CmdWord) : Except IllegalWord Instr :=
  if opOf w = 0x01#8 then decodeNoOperand (argOf w) .clr
  else if opOf w = 0x02#8 then .ok (.keyb (argOf w))
  else if opOf w = 0x03#8 then decodeNoOperand (argOf w) .ksa
  else if opOf w = 0x04#8 then decodeNoOperand (argOf w) .next
  else if opOf w = 0x05#8 then .ok (.xorb (argOf w))
  else if opOf w = 0x06#8 then .ok (.rds (argOf w))
  else if opOf w = 0x07#8 then decodeRegister (argOf w)
  else .error .undefinedOpcode

/-- The 16-bit command word whose bits, numbered as spec/opcode_table.json numbers them, are those of `w` below
`nbits` and 0 above. A command is one parallel 16-bit word (20_memory.md R54), so no byte order enters. -/
def tableWord (nbits w : Nat) : CmdWord := BitVec.ofNat 16 (w % 2 ^ nbits)

/-- The instruction the decoder reads from a row of spec/opcode_table.json. -/
def decodeTableWord (nbits w : Nat) : Option Instr :=
  match decode (tableWord nbits w) with
  | .ok i => some i
  | .error _ => none

/-- The word of a command (30_encoding.md R84). -/
def encode : Instr → CmdWord
  | .clr => wordOf 0x01#8 0x00#8
  | .keyb b => wordOf 0x02#8 b
  | .ksa => wordOf 0x03#8 0x00#8
  | .next => wordOf 0x04#8 0x00#8
  | .xorb m => wordOf 0x05#8 m
  | .rds a => wordOf 0x06#8 a
  | .rdrStatus => wordOf 0x07#8 0#8
  | .rdrI => wordOf 0x07#8 1#8
  | .rdrJ => wordOf 0x07#8 2#8
  | .rdrKlenl => wordOf 0x07#8 3#8
  | .rdrKlenh => wordOf 0x07#8 4#8

/-! Each command's decoding, on a word written bit by bit from the encoding column of the opcode table. -/

theorem decode_word_clr : decode 0b0000000100000000#16 = .ok .clr := by rfl
theorem decode_word_keyb : decode 0b0000001010000001#16 = .ok (.keyb 0x81#8) := by rfl
theorem decode_word_ksa : decode 0b0000001100000000#16 = .ok .ksa := by rfl
theorem decode_word_next : decode 0b0000010000000000#16 = .ok .next := by rfl
theorem decode_word_xorb : decode 0b0000010101010000#16 = .ok (.xorb 0x50#8) := by rfl
theorem decode_word_rds : decode 0b0000011010101010#16 = .ok (.rds 0xAA#8) := by rfl
theorem decode_word_rdrStatus : decode 0b0000011100000000#16 = .ok .rdrStatus := by rfl
theorem decode_word_rdrI : decode 0b0000011100000001#16 = .ok .rdrI := by rfl
theorem decode_word_rdrJ : decode 0b0000011100000010#16 = .ok .rdrJ := by rfl
theorem decode_word_rdrKlenl : decode 0b0000011100000011#16 = .ok .rdrKlenl := by rfl
theorem decode_word_rdrKlenh : decode 0b0000011100000100#16 = .ok .rdrKlenh := by rfl

end Sys2Proof
end

