-- ==== Sys2Proof/Config.lean ====
section
/-! DEFINITION. What the spec fixes for every SCE (00_scope.md R6), and the free values of the cells that hold
no value (10_state.md R39). The open parameter `NINST` (R7) is the length of the list in Machine/Platform.lean. -/

namespace Sys2Proof

/-- `N`: the number of entries of the permutation state S, and of rounds of the key schedule (00_scope.md R6). -/
abbrev Config.N : Nat := 256

/-- `KBUF`: the capacity of the key buffer K (00_scope.md R6, 92_eei_decisions.md D5). -/
abbrev Config.KBUF : Nat := 256

/-- `IFVER`: the version of the command set (00_scope.md R6). No register shows it (10_state.md R30). -/
def Config.IFVER : Nat := 1

/-- DESIGN CHOICE, log entry 4. What a read of cell `n` of S gives while that cell holds no value: a free value.
No command reads such a cell in a state that a run from reset reaches (10_state.md R39). -/
opaque Config.noValueS : Nat → Byte

/-- DESIGN CHOICE, log entry 4. What a read of cell `n` of K gives while that cell holds no value: a free value.
No command reads such a cell in a state that a run from reset reaches (10_state.md R35, R39). -/
opaque Config.noValueK : Nat → Byte

end Sys2Proof
end

