-- ==== Sys2Proof/Machine/State.lean ====
section
/-! DEFINITION. The state of one SCE instance (10_state.md R20) with the host's two ports, as plain data; the
outcomes of a step; the state after reset (10_state.md R38, 70_reset_and_hazards.md R260). -/

namespace Sys2Proof.Machine

/-- `PHASE`: where the instance is in a transform call. The 2-bit value 3 never occurs and cannot be written down
(10_state.md R28, R36; 93_implementation_defined.md U7). -/
inductive Phase where
  /-- No permutation state exists; key bytes may be loaded. -/
  | load
  /-- S holds a scheduled permutation; I and J are the generator's cursors. -/
  | run
  /-- The transform call ended with `InvalidKey`. -/
  | failed
  deriving DecidableEq, Repr

/-- The three fault responses of the SCE (60_exceptions.md R220). They are answers to the host, after which the
machine goes on: raising one is a next state, never a stop of the model. -/
inductive FaultCause where
  /-- `KSA` in `LOAD` with an empty key (60_exceptions.md R221). -/
  | invalidKey
  /-- A legal command that the phase does not admit (60_exceptions.md R222). -/
  | wrongPhase
  /-- A word that is no command (60_exceptions.md R223). -/
  | illegalCommand
  deriving DecidableEq, Repr

/-- What the outside does to the instance, one event at a time (60_exceptions.md R246, 70_reset_and_hazards.md R260).
The model's own type, log entries 1 and 3. -/
inductive HostEvent where
  /-- The host writes a command word to the command port. -/
  | command (w : CmdWord)
  /-- Reset, between two commands. -/
  | reset
  /-- Reset while the command `w` executes, after it was accepted and before its response (R261). -/
  | resetDuring (w : CmdWord)
  deriving DecidableEq, Repr

/-- A byte memory: (index, byte) pairs, indices strictly rising. A cell that is not listed holds no value
(10_state.md R39). -/
abbrev Memory := List Host.Cell

/-- Why a step of the model would stop with a fault. No constructor: every command in every state answers and the
machine goes on (60_exceptions.md R225, R237; 20_memory.md R64). The spec's own faults are `FaultCause`. Log entry 7. -/
inductive Fault where
  deriving DecidableEq, Repr

/-- Why an instruction would have no meaning. No meaning and no step raises one. Log entry 7. -/
inductive Refusal where
  /-- Raised only by an arm of `exec` whose instruction has no meaning yet; there is none. Safe: it stops. -/
  | notModelled (mnemonic : String)
  deriving DecidableEq, Repr

/-- The state of one instance (10_state.md R20) and its two ports. -/
structure State where
  /-- The permutation memory (10_state.md R33). -/
  S : Memory
  /-- The key buffer (10_state.md R25). -/
  K : Memory
  /-- The 9-bit key length, 0..256 (10_state.md R26; 257..511 cannot be written down, R35). -/
  KLEN : Fin (Config.KBUF + 1)
  /-- Cursor i (10_state.md R22). -/
  I : Byte
  /-- Cursor j (10_state.md R23). -/
  J : Byte
  /-- The phase register (10_state.md R28). -/
  PHASE : Phase
  /-- The sticky protocol-fault flag (10_state.md R29). -/
  PF : Bool
  /-- The model's own: what the host will do next, oldest first (log entry 1). -/
  input : List HostEvent
  /-- The model's own: the response words delivered, oldest first; no command reads them (log entry 2). -/
  output : List RspWord
  deriving DecidableEq, Repr

/-- The outcome of a command or a step of this machine. -/
abbrev Outcome := Host.Outcome State Fault Refusal

/-- The machine right after reset (10_state.md R38, 70_reset_and_hazards.md R260): S and K hold no value; both
ports are empty (DESIGN CHOICE, log entries 1 and 2). -/
def State.reset : State where
  S := []
  K := []
  KLEN := 0
  I := 0#8
  J := 0#8
  PHASE := .load
  PF := false
  input := []
  output := []

end Sys2Proof.Machine
end

