-- ==== Sys2Proof/Machine/Flags.lean ====
section
/-! DEFINITION. The codes of the phase register and of the faults, and the status byte. The SCE computes no
condition flag: its arithmetic sets none (43_cipher_transform.md R174, 10_state.md R28, R29). -/

namespace Sys2Proof.Machine

/-- The 2-bit value of `PHASE`: LOAD 0, RUN 1, FAILED 2 (10_state.md R28). -/
def Phase.code : Phase → BitVec 2
  | .load => 0#2
  | .run => 1#2
  | .failed => 2#2

/-- The `CODE` field of a fault response (30_encoding.md R83, 60_exceptions.md R220). -/
def FaultCause.code : FaultCause → Byte
  | .invalidKey => 0x01#8
  | .wrongPhase => 0x02#8
  | .illegalCommand => 0x03#8

/-- `STATUS`: `PHASE` in bits 1..0, `PF` in bit 2, bits 7..3 always 0 (10_state.md R30, 44_observation.md R205). -/
def statusByte (s : State) : Byte := 0b00000#5 ++ (BitVec.ofBool s.PF ++ s.PHASE.code)

end Sys2Proof.Machine
end

