-- ==== Sys2Proof/Machine/Operands.lean ====
section
/-! DEFINITION. The operand forms: the register views that `RDR` selects (10_state.md R30) and the index of the key
byte a schedule round reads (20_memory.md R52). The operand byte itself is `argOf` of Decode.lean (30_encoding.md R85). -/

namespace Sys2Proof.Machine

/-- `KLEN` as the 9-bit register the host reads in two parts (10_state.md R26). -/
def klenWord (s : State) : BitVec 9 := BitVec.ofNat 9 s.KLEN.val

/-- `KLENL`: `KLEN[7:0]` (10_state.md R30). -/
def klenLow (s : State) : Byte := (klenWord s).extractLsb' 0 8

/-- `KLENH`: `KLEN[8]` in bit 0, bits 7..1 always 0 (10_state.md R30). -/
def klenHigh (s : State) : Byte := 0b0000000#7 ++ (klenWord s).extractLsb' 8 1

/-- `r mod KLEN`, the index of the key byte that round `r` of the schedule reads (41_key_scheduler.md R131). It is
formed only when `KLEN` is not 0 (R132). -/
def keyIndex (r klen : Nat) : Nat := r % klen

end Sys2Proof.Machine
end

