-- ==== Sys2Proof/Machine/Ops.lean ====
section
/-! DEFINITION. The named operations: byte memories, the registers, responses, raising a fault (the SCE's form of
taking an exception), the admission test by phase, and starting afresh. -/

namespace Sys2Proof.Machine

/-! ### Byte memories (20_memory.md R50 to R55) -/

/-- The byte listed at index `x`, or none where the cell holds no value. -/
def Memory.read : Memory → Nat → Option Byte
  | [], _ => none
  | c :: m, x => if c.1 = x then some c.2 else Memory.read m x

/-- The memory after index `x` is given the byte `v`, kept in rising order. -/
def Memory.write : Memory → Nat → Byte → Memory
  | [], x, v => [(x, v)]
  | c :: m, x, v =>
    if c.1 < x then c :: Memory.write m x v
    else if c.1 = x then (x, v) :: m
    else (x, v) :: c :: m

/-- The canonical form: indices strictly rising and all of them in 0..255. -/
abbrev Memory.wf (m : Memory) : Prop :=
  m.Pairwise (fun c d => c.1 < d.1) ∧ ∀ c ∈ m, c.1 < Config.N

/-- `S[a]` as a command reads it; a cell that holds no value gives the free value (log entry 4). -/
def cellS (m : Memory) (a : Byte) : Byte := (m.read a.toNat).getD (Config.noValueS a.toNat)

/-- `K[n]` as a command reads it; a cell that holds no value gives the free value (log entry 4). -/
def cellK (m : Memory) (n : Nat) : Byte := (m.read n).getD (Config.noValueK n)

/-- `swap(S, a, b)`: `t <- S[a]; S[a] <- S[b]; S[b] <- t` (00_scope.md R10). -/
def swapCells (m : Memory) (a b : Byte) : Memory :=
  let t := cellS m a
  let m := m.write a.toNat (cellS m b)
  m.write b.toNat t

/-! ### Registers: one write operation per field (00_scope.md R10) -/

def State.setS (m : Memory) (s : State) : State := { s with S := m }
def State.setK (m : Memory) (s : State) : State := { s with K := m }
def State.setKLEN (n : Fin (Config.KBUF + 1)) (s : State) : State := { s with KLEN := n }
def State.setI (v : Byte) (s : State) : State := { s with I := v }
def State.setJ (v : Byte) (s : State) : State := { s with J := v }
def State.setPHASE (p : Phase) (s : State) : State := { s with PHASE := p }
def State.setPF (b : Bool) (s : State) : State := { s with PF := b }
def State.setInput (es : List HostEvent) (s : State) : State := { s with input := es }

/-- The response port: one more response word is delivered (30_encoding.md R80). -/
def State.deliver (w : RspWord) (s : State) : State := { s with output := s.output ++ [w] }

/-! ### Responses and faults -/

/-- The response word `{CODE, DATA}` (30_encoding.md R83). -/
def responseWord (code data : Byte) : RspWord := code ++ data

/-- `respond OK(d)`: the word `{0x00, d}` (00_scope.md R11). -/
def respond (d : Byte) (s : State) : State := s.deliver (responseWord 0x00#8 d)

/-- A fault's state change: `InvalidKey` writes `PHASE`, the two interface faults write `PF`
(60_exceptions.md R220). -/
def faultEffect : FaultCause → State → State
  | .invalidKey, s => s.setPHASE .failed
  | .wrongPhase, s => s.setPF true
  | .illegalCommand, s => s.setPF true

/-- `raise <Fault>`, the SCE's form of taking an exception: the fault's state change and the response word
`{code, 0x00}`, nothing saved, control goes nowhere (00_scope.md R11, 60_exceptions.md R231). -/
def raiseFault (c : FaultCause) (s : State) : State :=
  (faultEffect c s).deliver (responseWord c.code 0x00#8)

/-- There is no return from a fault; a failed call is left by starting afresh (60_exceptions.md R235, R236).
The common effect of `CLR` and of reset: every register at its reset value, S and K lose their value
(40_context_and_key.md R111, 70_reset_and_hazards.md R260). That no cell stays listed is log entry 5. -/
def startAfresh (s : State) : State :=
  ((((((s.setPHASE .load).setKLEN 0).setI 0#8).setJ 0#8).setPF false).setS []).setK []

/-- The admission test: in the phase `p` the command runs, elsewhere it raises `WrongPhase` and does nothing
else (60_exceptions.md R222). -/
def whenPhase (p : Phase) (run : State → Outcome) (s : State) : Outcome :=
  if s.PHASE = p then run s else .next (raiseFault .wrongPhase s)

/-- The state an outcome leaves, if it is a next state. -/
def nextOf : Outcome → Option State
  | .next t => some t
  | .fault _ => none
  | .refused _ => none

end Sys2Proof.Machine
end

