-- ==== Sys2Proof/Machine/Keystream.lean ====
section
/-! DEFINITION. The keystream generator: the step that `NEXT` and `XORB` share, and `NEXT`
(spec/42_keystream_generator.md). -/

namespace Sys2Proof.Machine

/-- `I <- (I + 1) mod 256` (42_keystream_generator.md R151). -/
def advanceI (s : State) : State := s.setI (s.I + 1#8)

/-- `J <- (J + S[I]) mod 256`, S read at the new `I` (42_keystream_generator.md R151). -/
def advanceJ (s : State) : State := s.setJ (s.J + cellS s.S s.I)

/-- `swap(S, I, J)` (42_keystream_generator.md R151). -/
def exchange (s : State) : State := s.setS (swapCells s.S s.I s.J)

/-- One generator step, in the order of 42_keystream_generator.md R151 and 20_memory.md R59. -/
def generatorStep (s : State) : State := exchange (advanceJ (advanceI s))

/-- `k <- S[(S[I] + S[J]) mod 256]`, all reads after the swap (42_keystream_generator.md R150, R151). -/
def outputByte (s : State) : Byte := cellS s.S (cellS s.S s.I + cellS s.S s.J)

/-- `NEXT` (42_keystream_generator.md R151, R156). -/
def execNext (s : State) : Outcome :=
  whenPhase .run (fun s => .next (respond (outputByte (generatorStep s)) (generatorStep s))) s

end Sys2Proof.Machine
end

