-- ==== Sys2Proof/Machine/Cipher.lean ====
section
/-! DEFINITION. The cipher XOR transform's command: `XORB` (spec/43_cipher_transform.md). The host procedure
`TRANSFORM` is in Machine/HostProcedure.lean. -/

namespace Sys2Proof.Machine

/-- `XORB m` (43_cipher_transform.md R171, R172). -/
def execXorb (m : Byte) (s : State) : Outcome :=
  whenPhase .run (fun s => .next (respond (m ^^^ outputByte (generatorStep s)) (generatorStep s))) s

end Sys2Proof.Machine
end

