-- ==== Sys2Proof/Machine/ContextKey.lean ====
section
/-! DEFINITION. Starting a transform call and loading the key: `CLR`, `KEYB` (spec/40_context_and_key.md). -/

namespace Sys2Proof.Machine

/-- `CLR` (40_context_and_key.md R111, R112). -/
def execClr (s : State) : Outcome := .next (respond 0x00#8 (startAfresh s))

/-- `K[KLEN] <- b; KLEN <- KLEN + 1` while there is room; the 257th byte and later ones are dropped
(40_context_and_key.md R115, R117). -/
def appendKeyByte (b : Byte) (s : State) : State :=
  if h : s.KLEN.val < Config.KBUF then
    (s.setK (s.K.write s.KLEN.val b)).setKLEN ⟨s.KLEN.val + 1, Nat.add_lt_add_right h 1⟩
  else s

/-- `KEYB b` (40_context_and_key.md R115 to R118). -/
def execKeyb (b : Byte) (s : State) : Outcome :=
  whenPhase .load (fun s => .next (respond 0x00#8 (appendKeyByte b s))) s

end Sys2Proof.Machine
end

