-- ==== Sys2Proof/Machine/KeyScheduler.lean ====
section
/-! DEFINITION. The key scheduler: `KSA` (spec/41_key_scheduler.md). -/

namespace Sys2Proof.Machine

/-- `for a from 0 to 255: S[a] <- a`: every cell of S is written, whatever it held (41_key_scheduler.md R131, R134). -/
def identityMemory : Memory := (List.range Config.N).map fun a => (a, BitVec.ofNat 8 a)

/-- Round `r` on `(S, jk)`: first `jk <- (jk + S[r] + K[r mod KLEN]) mod 256`, then `swap(S, r, jk)`
(41_key_scheduler.md R131, 20_memory.md R59). -/
def scheduleRound (K : Memory) (klen : Nat) (p : Memory × Byte) (r : Nat) : Memory × Byte :=
  let jk := p.2 + cellS p.1 (BitVec.ofNat 8 r) + cellK K (keyIndex r klen)
  (swapCells p.1 (BitVec.ofNat 8 r) jk, jk)

/-- The 256 rounds from the identity and `jk = 0`; the accumulator is dropped at the end
(41_key_scheduler.md R131, R133). Irreducible, so that no proof unrolls the rounds by accident. -/
@[irreducible] def scheduledMemory (K : Memory) (klen : Nat) : Memory :=
  ((List.range Config.N).foldl (scheduleRound K klen) (identityMemory, 0#8)).1

/-- The successful `KSA`: schedule, then construct the generator (41_key_scheduler.md R131, R133). -/
def runSchedule (s : State) : State :=
  (((s.setS (scheduledMemory s.K s.KLEN.val)).setI 0#8).setJ 0#8).setPHASE .run

/-- `KSA`: `WrongPhase`, then `InvalidKey`, then the schedule (41_key_scheduler.md R131, R132, R137). -/
def execKsa (s : State) : Outcome :=
  whenPhase .load (fun s =>
    if s.KLEN.val = 0 then .next (raiseFault .invalidKey s)
    else .next (respond 0x00#8 (runSchedule s))) s

end Sys2Proof.Machine
end

