-- ==== Sys2Proof/Machine/Observation.lean ====
section
/-! DEFINITION. The observation commands: `RDS` and the five `RDR` (spec/44_observation.md). They write no state. -/

namespace Sys2Proof.Machine

/-- `RDS a` (44_observation.md R201, R202). -/
def execRds (a : Byte) (s : State) : Outcome :=
  whenPhase .run (fun s => .next (respond (cellS s.S a) s)) s

/-- `RDR STATUS` (44_observation.md R205). It reads `PF` without clearing it (R207). -/
def execRdrStatus (s : State) : Outcome := .next (respond (statusByte s) s)

/-- `RDR I` (44_observation.md R205). -/
def execRdrI (s : State) : Outcome := .next (respond s.I s)

/-- `RDR J` (44_observation.md R205). -/
def execRdrJ (s : State) : Outcome := .next (respond s.J s)

/-- `RDR KLENL` (44_observation.md R205). -/
def execRdrKlenl (s : State) : Outcome := .next (respond (klenLow s) s)

/-- `RDR KLENH` (44_observation.md R205). -/
def execRdrKlenh (s : State) : Outcome := .next (respond (klenHigh s) s)

end Sys2Proof.Machine
end

