-- ==== Sys2Proof/Machine/Dispatch.lean ====
section
/-! DEFINITION. The meaning of each command, one arm per constructor of `Instr`. -/

namespace Sys2Proof.Machine

def exec (i : Instr) (s : State) : Host.Outcome State Fault Refusal :=
  match i with
  | .clr => Sys2Proof.Machine.execClr s
  | .keyb b => Sys2Proof.Machine.execKeyb b s
  | .ksa => Sys2Proof.Machine.execKsa s
  | .next => Sys2Proof.Machine.execNext s
  | .xorb m => Sys2Proof.Machine.execXorb m s
  | .rds a => Sys2Proof.Machine.execRds a s
  | .rdrStatus => Sys2Proof.Machine.execRdrStatus s
  | .rdrI => Sys2Proof.Machine.execRdrI s
  | .rdrJ => Sys2Proof.Machine.execRdrJ s
  | .rdrKlenl => Sys2Proof.Machine.execRdrKlenl s
  | .rdrKlenh => Sys2Proof.Machine.execRdrKlenh s

end Sys2Proof.Machine
end

