-- ==== Sys2Proof/Machine/Accept.lean ====
section
/-! DEFINITION. What the instance does with one event from outside: it accepts a command word, is reset, or stays
as it is when there is none (60_exceptions.md R246, R250; 70_reset_and_hazards.md R260, R261). -/

namespace Sys2Proof.Machine

/-- A command word: decoded first, an illegal word raises `IllegalCommand` in every phase, a command executes
(30_encoding.md R86, 60_exceptions.md R223, R230). -/
def acceptWord (w : CmdWord) (s : State) : Outcome :=
  match decode w with
  | .ok i => exec i s
  | .error _ => .next (raiseFault .illegalCommand s)

/-- Reset: total, independent of the state before, no response word (70_reset_and_hazards.md R260). -/
def resetEvent (s : State) : State := startAfresh s

/-- Reset while the command `w` executes: the command is abandoned without a response and the state is the reset
state, whatever `w` was (70_reset_and_hazards.md R261). -/
def abandonCommand (_w : CmdWord) (s : State) : State := resetEvent s

/-- One event, taken from the head of `input`; with no event the instance stays in its state
(60_exceptions.md R250; log entries 1, 3 and 8). -/
def serve (s : State) : Outcome :=
  match s.input with
  | [] => .next s
  | .command w :: rest => acceptWord w (s.setInput rest)
  | .reset :: rest => .next (resetEvent (s.setInput rest))
  | .resetDuring w :: rest => .next (abandonCommand w (s.setInput rest))

/-- The host puts the word `w` before whatever it meant to do next (60_exceptions.md R246). -/
def placeCommand (w : CmdWord) (s : State) : State := s.setInput (.command w :: s.input)

end Sys2Proof.Machine
end

