-- ==== Sys2Proof/Machine/Step.lean ====
section
/-! DEFINITION. One step of the machine, and where a step takes its next command word from. -/

namespace Sys2Proof.Machine

/-- One step: one event of the host or the platform is served (20_memory.md R64). -/
def step (s : State) : Host.Outcome State Fault Refusal := serve s

/-- `s` with the command word of a row of spec/opcode_table.json as the host's next event, so that the next step
runs it. The SCE fetches nothing: the host supplies each word (10_state.md R27; log entries 1 and 10). -/
def State.withFetchWord (s : State) (nbits w : Nat) : State := placeCommand (tableWord nbits w) s

end Sys2Proof.Machine
end

