-- ==== Sys2Proof/Machine/Platform.lean ====
section
/-! DEFINITION. A platform of `NINST` instances (60_exceptions.md R248): each has its own complete state and ports,
and they share nothing. Which instance moves next is the platform's, an argument here (log entry 11). -/

namespace Sys2Proof.Machine

/-- The instances of a platform; `NINST` is the length (00_scope.md R7). -/
abbrev Platform := List State

/-- Instance `n` makes one step; none if there is no such instance (60_exceptions.md R248). -/
def stepInstance (n : Nat) (p : Platform) : Option Platform :=
  p[n]?.bind fun s => (nextOf (step s)).map fun t => p.set n t

end Sys2Proof.Machine
end

