-- ==== Sys2Proof/Machine/Reference.lean ====
section
/-! DEFINITION. The pure functions the spec states the commands by: `schedule` (41_key_scheduler.md R130), `prga` and
`keystream` (42_keystream_generator.md R150), `transform` (43_cipher_transform.md R170). They use no part of the machine. -/

namespace Sys2Proof.Machine

/-- A permutation state as a function from index to byte (00_scope.md R13). -/
abbrev Perm := Byte → Byte

/-- `swap(S, a, b)` on a function (00_scope.md R10). -/
def Perm.swap (S : Perm) (a b : Byte) : Perm :=
  fun x => if x = a then S b else if x = b then S a else S x

/-- Round `r` of `schedule` on `(S, jk)`, for a key that is not empty (41_key_scheduler.md R130). -/
def keyRound (key : List Byte) (p : Perm × Byte) (r : Nat) : Perm × Byte :=
  let jk := p.2 + p.1 (BitVec.ofNat 8 r) + key.getD (r % key.length) 0#8
  (p.1.swap (BitVec.ofNat 8 r) jk, jk)

/-- The 256 rounds of `schedule` from the identity and `jk = 0` (41_key_scheduler.md R130). Irreducible, so that no
proof unrolls the rounds by accident. -/
@[irreducible] def scheduledPerm (key : List Byte) : Perm :=
  ((List.range Config.N).foldl (keyRound key) (id, 0#8)).1

/-- `schedule(key)`; undefined, here none, for the empty key (41_key_scheduler.md R130). -/
def schedule (key : List Byte) : Option Perm :=
  if key = [] then none
  else some (scheduledPerm key)

/-- A generator state `(S, I, J)` (42_keystream_generator.md R150). -/
structure Generator where
  S : Perm
  I : Byte
  J : Byte

/-- `prga`: the new generator state and the byte `k` (42_keystream_generator.md R150). -/
def prga (g : Generator) : Generator × Byte :=
  let i := g.I + 1#8
  let j := g.J + g.S i
  let t := g.S.swap i j
  (⟨t, i, j⟩, t (t i + t j))

/-- `n` bytes from a generator state, with the state they leave (42_keystream_generator.md R150). -/
def prgaBytes : Nat → Generator → Generator × List Byte
  | 0, g => (g, [])
  | n + 1, g =>
    let (g', k) := prga g
    let (g'', ks) := prgaBytes n g'
    (g'', k :: ks)

/-- `keystream(key, n)` (42_keystream_generator.md R150). -/
def keystream (key : List Byte) (n : Nat) : Option (List Byte) :=
  (schedule key).map fun S => (prgaBytes n ⟨S, 0#8, 0#8⟩).2

/-- `transform(key, message)`; none is the failure `InvalidKey` (43_cipher_transform.md R170). -/
def transform (key message : List Byte) : Option (List Byte) :=
  (keystream key message.length).map fun ks => List.zipWith (· ^^^ ·) message ks

end Sys2Proof.Machine
end

