-- ==== Sys2Proof/Machine/HostProcedure.lean ====
section
/-! DEFINITION. What the host does in a transform call: the pseudo-commands of 30_encoding.md R93 and the procedure
`TRANSFORM` of 43_cipher_transform.md R180, with its one decision on the response of `KSA`. -/

namespace Sys2Proof.Machine

/-- `KEY b0 b1 ...` (30_encoding.md R93). -/
def keyCommands (key : List Byte) : List Instr := key.map .keyb

/-- `XORS m0 m1 ...` (30_encoding.md R93). -/
def xorsCommands (message : List Byte) : List Instr := message.map .xorb

/-- `NEXTN n` (30_encoding.md R93). -/
def nextnCommands (n : Nat) : List Instr := List.replicate n .next

/-- The host issues one command and takes its response: the state after, and the response word
(60_exceptions.md R246). None if the step would not answer. -/
def issue (i : Instr) (s : State) : Option (State × RspWord) :=
  match step (placeCommand (encode i) s) with
  | .next t => t.output.getLast?.map fun w => (t, w)
  | .fault _ => none
  | .refused _ => none

/-- The host issues commands one after the other; the responses in order (70_reset_and_hazards.md R273). -/
def issueAll : List Instr → State → Option (State × List RspWord)
  | [], s => some (s, [])
  | i :: is, s =>
    (issue i s).bind fun p => (issueAll is p.1).map fun q => (q.1, p.2 :: q.2)

/-- `CODE` of a response word (30_encoding.md R83). -/
def codeOf (w : RspWord) : Byte := w.extractLsb' 8 8

/-- `DATA` of a response word (30_encoding.md R83). -/
def dataOf (w : RspWord) : Byte := w.extractLsb' 0 8

/-- What a transform call gives its caller (43_cipher_transform.md R180). -/
inductive CallResult where
  /-- The key was empty; there is no output at all. -/
  | invalidKey
  /-- The output sequence. -/
  | output (bytes : List Byte)
  deriving DecidableEq, Repr

/-- The part of `TRANSFORM` after `KSA` has answered the word `r` (43_cipher_transform.md R180). -/
def finishCall (message : List Byte) (r : RspWord) (s : State) : Option (State × CallResult) :=
  if codeOf r = FaultCause.invalidKey.code then
    (issue .clr s).map fun p => (p.1, .invalidKey)
  else
    (issueAll (xorsCommands message) s).bind fun p =>
      (issue .clr p.1).map fun q => (q.1, .output (p.2.map dataOf))

/-- `TRANSFORM key, message`, started in any state (43_cipher_transform.md R180). `ENCRYPT` and `DECRYPT` are both
this procedure (R186). -/
def transformCall (key message : List Byte) (s : State) : Option (State × CallResult) :=
  (issueAll (.clr :: keyCommands key) s).bind fun p =>
    (issue .ksa p.1).bind fun q => finishCall message q.2 q.1

end Sys2Proof.Machine
end

