-- ==== Sys2Proof/Safety.lean ====
section
/-! DEFINITION. What claims about the machine use: which command the phase admits and what it answers, as the spec's
tables have it; what it is for S to hold a permutation and for K to hold a key; the invariant of the machine. -/

namespace Sys2Proof.Machine

/-- The admission table (60_exceptions.md R222). -/
def admitted : Instr → Phase → Bool
  | .clr, _ => true
  | .keyb _, p => p == .load
  | .ksa, p => p == .load
  | .next, p => p == .run
  | .xorb _, p => p == .run
  | .rds _, p => p == .run
  | .rdrStatus, _ => true
  | .rdrI, _ => true
  | .rdrJ, _ => true
  | .rdrKlenl, _ => true
  | .rdrKlenh, _ => true

/-- The `CODE` of the response, from the command, the phase before and whether the key is empty: the table of
60_exceptions.md R232 with the codes of R220. -/
def codeAnswered (i : Instr) (p : Phase) (emptyKey : Bool) : Byte :=
  if admitted i p = false then 0x02#8
  else if i = .ksa ∧ emptyKey = true then 0x01#8
  else 0x00#8

/-- The phase after, from the command, the phase before and whether the key is empty (60_exceptions.md R232). -/
def phaseAfter (i : Instr) (p : Phase) (emptyKey : Bool) : Phase :=
  match i, p with
  | .clr, _ => .load
  | .ksa, .load => if emptyKey then .failed else .run
  | _, p => p

/-- The memory holds the function `f` on the indices 0..255. -/
def HoldsFunction (m : Memory) (f : Perm) : Prop := ∀ a : Byte, m.read a.toNat = some (f a)

/-- The memory holds a permutation of 0..255: `a -> S[a]` is a bijection (10_state.md R33, Invariant P). -/
def HoldsPermutation (m : Memory) : Prop := ∃ f : Perm, HoldsFunction m f ∧ Function.Bijective f

/-- `K[0..KLEN-1]` is the key (10_state.md R25, R26). -/
def HoldsKey (s : State) (key : List Byte) : Prop :=
  s.KLEN.val = key.length ∧ ∀ n, n < key.length → s.K.read n = key[n]?

/-- The invariant of the machine. -/
structure MachineInv (s : State) : Prop where
  /-- S is in canonical form. -/
  canonicalS : s.S.wf
  /-- K is in canonical form. -/
  canonicalK : s.K.wf
  /-- Invariant P: in `RUN`, S is a permutation of 0..255 (10_state.md R33). -/
  permutation : s.PHASE = .run → HoldsPermutation s.S
  /-- In `LOAD` and `FAILED`, no cell of S holds a value (10_state.md R33). -/
  noPermutation : s.PHASE ≠ .run → s.S = []
  /-- Invariant C: outside `RUN` both cursors are 0 (10_state.md R34). -/
  cursors : s.PHASE ≠ .run → s.I = 0#8 ∧ s.J = 0#8
  /-- Invariant K: the cells of K that hold a value are those below `KLEN` (10_state.md R25, R35). -/
  keyCells : ∀ n, (s.K.read n).isSome = true ↔ n < s.KLEN.val
  /-- Invariant F: `RUN` implies `KLEN >= 1` (10_state.md R36). -/
  runKey : s.PHASE = .run → 1 ≤ s.KLEN.val
  /-- Invariant F: `FAILED` implies `KLEN = 0` (10_state.md R36). -/
  failedKey : s.PHASE = .failed → s.KLEN.val = 0

end Sys2Proof.Machine
end

