-- ==== Sys2Proof/Certificates/Slice0/Obligations.lean ====
section
/-! DEFINITION. The statements for the provers. Each docstring names the rule of spec/ it formalises. -/

open Sys2Proof Sys2Proof.Machine

/-! The host's side of the two ports is held in the model's own fields `input` and `output` (log entries 1 and 2): a
statement about a step says through them which word the host presents and which response words it has been given. -/

/-! ### Reset, idling, and what a step does with a command word -/

/-- 10_state.md R38: the reset value of every piece of state the spec gives the instance. -/
def Obligations.ResetLeavesTheStatedValues : Prop :=
  State.reset.KLEN.val = 0 ∧ State.reset.I = 0#8 ∧ State.reset.J = 0#8 ∧ State.reset.PHASE = .load ∧
    State.reset.PHASE.code = 0#2 ∧ State.reset.PF = false ∧
    ∀ n, State.reset.S.read n = none ∧ State.reset.K.read n = none

/-- 70_reset_and_hazards.md R260, R262: reset is total, whatever the state before, gives no response, leaves an
instance that waits for a command, and leaves the state that `CLR` leaves. That S and K then list no cell at all is
the model's choice (log entry 5). -/
def Obligations.ResetEventIsTotal : Prop :=
  (∀ s rest, s.input = .reset :: rest →
    step s = .next { State.reset with input := rest, output := s.output }) ∧
  step State.reset = .next State.reset ∧
  ∀ s, exec .clr s = .next { State.reset with input := s.input, output := s.output ++ [0x0000#16] }

/-- 70_reset_and_hazards.md R261: a reset during a command abandons it, whichever command and whatever the state:
no response, and the reset state. -/
def Obligations.ResetDuringACommandLosesItsResponse : Prop :=
  ∀ s w rest, s.input = .resetDuring w :: rest →
    step s = .next { State.reset with input := rest, output := s.output }

/-- 60_exceptions.md R250: an instance that receives no command stays in its state. -/
def Obligations.IdleInstanceKeepsItsState : Prop :=
  ∀ s, s.input = [] → step s = .next s

/-- 20_memory.md R64, 30_encoding.md R86: a step on a command word is the decoded command, executed on the state
whose command port has given up that word; and the word `withFetchWord` places is the one the next step runs. -/
def Obligations.StepRunsTheDecodedCommand : Prop :=
  (∀ s w rest i, s.input = .command w :: rest → decode w = .ok i → step s = exec i { s with input := rest }) ∧
  ∀ s nbits w i, decodeTableWord nbits w = some i → step (s.withFetchWord nbits w) = exec i s

/-- 60_exceptions.md R223 with 30_encoding.md R87, R88, R90: an undefined `OP`, a non-zero `ARG` in format Z or a
register number above 4 raises `IllegalCommand` in every phase: `PF` is set, the response is 0x0300, and nothing
else changes. These words are 64760: the members of a list of 64760 different words. -/
def Obligations.IllegalWordRaisesIllegalCommand : Prop :=
  (∀ (s : State) (op arg : Byte) rest,
    (op = 0x00#8 ∨ 8 ≤ op.toNat) ∨ ((op = 0x01#8 ∨ op = 0x03#8 ∨ op = 0x04#8) ∧ arg ≠ 0x00#8) ∨
      (op = 0x07#8 ∧ 5 ≤ arg.toNat) →
    s.input = .command (op ++ arg) :: rest →
    step s = .next { s with PF := true, input := rest, output := s.output ++ [0x0300#16] }) ∧
  ∃ l : List CmdWord, l.Nodup ∧ l.length = 64760 ∧ ∀ op arg : Byte, (op ++ arg : BitVec 16) ∈ l ↔
    (op = 0x00#8 ∨ 8 ≤ op.toNat) ∨ ((op = 0x01#8 ∨ op = 0x03#8 ∨ op = 0x04#8) ∧ arg ≠ 0x00#8) ∨
      (op = 0x07#8 ∧ 5 ≤ arg.toNat)

/-- 20_memory.md R64, 30_encoding.md R80, R83, 70_reset_and_hazards.md R280: every command word is answered with
exactly one response word, whose `CODE` is 0x00 to 0x03, and whose `DATA` is 0x00 when `CODE` is not 0x00; the word
is taken from the command port and the rest of the port is left. -/
def Obligations.EveryCommandWordIsAnsweredOnce : Prop :=
  ∀ s w rest, s.input = .command w :: rest →
    ∃ (t : State) (code data : Byte), step s = .next t ∧ t.input = rest ∧ t.output = s.output ++ [(code ++ data : BitVec 16)] ∧
      code.toNat ≤ 3 ∧ (code ≠ 0x00#8 → data = 0x00#8)

/-- 20_memory.md R64, 60_exceptions.md R237, R225: the step function is total: no state stops the machine. -/
def Obligations.NoStateStopsTheMachine : Prop :=
  ∀ s, ∃ t, step s = .next t

/-! ### Encoding -/

/-- 30_encoding.md R84, R86: decoding the word of a command gives the command back, with every operand. -/
def Obligations.DecodeOfEncodeIsTheCommand : Prop :=
  ∀ i, decode (encode i) = .ok i

/-- 30_encoding.md R84, R86: a word that decodes to a command is the word of that command, so no two words give
one command. -/
def Obligations.LegalWordIsTheWordOfItsCommand : Prop :=
  ∀ w i, decode w = .ok i → encode i = w

/-- 30_encoding.md R82, R86: the words that decode to a command are exactly those of the form of a format. -/
def Obligations.LegalWordsAreTheFormats : Prop :=
  ∀ w, (∃ i, decode w = .ok i) ↔ wordWellFormed w = true

/-- 30_encoding.md R84: there are 776 legal command words: they are the members of a list of 776 different words. -/
def Obligations.ThereAre776LegalWords : Prop :=
  ∃ l : List CmdWord, l.Nodup ∧ l.length = 776 ∧ ∀ w, w ∈ l ↔ ∃ i, decode w = .ok i

/-- 95_test_vectors.md V12: words of the spec's decoding table, of every format and next to its limits. -/
def Obligations.SampleWordsDecodeAsWritten : Prop :=
  decode 0x0100#16 = .ok .clr ∧ decode 0x02FF#16 = .ok (.keyb 0xFF#8) ∧ decode 0x0300#16 = .ok .ksa ∧
    decode 0x0400#16 = .ok .next ∧ decode 0x05FF#16 = .ok (.xorb 0xFF#8) ∧ decode 0x0600#16 = .ok (.rds 0x00#8) ∧
    decode 0x0700#16 = .ok .rdrStatus ∧ decode 0x0701#16 = .ok .rdrI ∧ decode 0x0702#16 = .ok .rdrJ ∧
    decode 0x0703#16 = .ok .rdrKlenl ∧ decode 0x0704#16 = .ok .rdrKlenh ∧
    decode 0x0000#16 = .error .undefinedOpcode ∧ decode 0x0800#16 = .error .undefinedOpcode ∧
    decode 0xFFFF#16 = .error .undefinedOpcode ∧ decode 0x0101#16 = .error .operandNotZero ∧
    decode 0x0301#16 = .error .operandNotZero ∧ decode 0x0480#16 = .error .operandNotZero ∧
    decode 0x0705#16 = .error .registerNumber

/-! ### The commands -/

/-- 40_context_and_key.md R111: `CLR`, its word and no other word of its opcode, and its whole effect in every phase:
the registers are written, no cell of S or of K holds a value any more, the answer is 0x0000. -/
def Obligations.ClrStartsANewCall : Prop :=
  decode 0x0100#16 = .ok .clr ∧ (∀ arg : Byte, arg ≠ 0x00#8 → decode (0x01#8 ++ arg) = .error .operandNotZero) ∧
  ∀ s, ∃ t, exec .clr s = .next t ∧ t.PHASE = .load ∧ t.KLEN.val = 0 ∧ t.I = 0#8 ∧ t.J = 0#8 ∧ t.PF = false ∧
    (∀ n, t.S.read n = none ∧ t.K.read n = none) ∧ t.input = s.input ∧ t.output = s.output ++ [0x0000#16]

/-- 40_context_and_key.md R115, R116, R117: `KEYB b`, its word; in `LOAD` with room it appends `b` and nothing else
changes; in `LOAD` with the buffer full it answers `OK` and changes nothing; elsewhere it raises `WrongPhase`. -/
def Obligations.KeybAppendsTheKeyByte : Prop :=
  (∀ b : Byte, decode (0x02#8 ++ b) = .ok (.keyb b)) ∧
  (∀ s b, s.PHASE = .load → s.KLEN.val < 256 → ∃ t, exec (.keyb b) s = .next t ∧
    t.K.read s.KLEN.val = some b ∧ (∀ n, n ≠ s.KLEN.val → t.K.read n = s.K.read n) ∧
    t.KLEN.val = s.KLEN.val + 1 ∧ t.S = s.S ∧ t.I = s.I ∧ t.J = s.J ∧ t.PHASE = .load ∧ t.PF = s.PF ∧
    t.input = s.input ∧ t.output = s.output ++ [0x0000#16]) ∧
  (∀ s b, s.PHASE = .load → s.KLEN.val = 256 →
    exec (.keyb b) s = .next { s with output := s.output ++ [0x0000#16] }) ∧
  ∀ s b, s.PHASE ≠ .load → exec (.keyb b) s = .next { s with PF := true, output := s.output ++ [0x0200#16] }

/-- 10_state.md R26, 20_memory.md R69: after `CLR`, the key bytes given by `KEYB` in order are held in order,
the first 256 of them, and `KLEN` is their number, saturating at 256. -/
def Obligations.LoadingAKeyHoldsItsFirst256Bytes : Prop :=
  ∀ key s, ∃ t, issueAll (.clr :: keyCommands key) s = some (t, List.replicate (key.length + 1) 0x0000#16) ∧
    t.KLEN.val = min 256 key.length ∧ (∀ n, n < 256 → t.K.read n = key[n]?) ∧ t.PHASE = .load ∧ t.PF = false ∧
    t.input = s.input

/-- 41_key_scheduler.md R131, R132, R137: `KSA`, its word; in `LOAD` with the key `K[0..KLEN-1]` not empty it leaves
`S = schedule(key)`, `I = 0`, `J = 0`, `PHASE = RUN`, `K`, `KLEN`, `PF` unchanged, and answers 0x0000; in `LOAD` with
`KLEN = 0` it raises `InvalidKey`, 0x0100, and only `PHASE` changes; elsewhere it raises `WrongPhase`. The premise
that `K` holds the key is Invariant K (10_state.md R35), part of `MachineInv`. -/
def Obligations.KsaSchedulesTheLoadedKey : Prop :=
  decode 0x0300#16 = .ok .ksa ∧
  (∀ s key, s.PHASE = .load → key ≠ [] → HoldsKey s key → ∃ t f, exec .ksa s = .next t ∧
    schedule key = some f ∧ HoldsFunction t.S f ∧ t.I = 0#8 ∧ t.J = 0#8 ∧ t.PHASE = .run ∧ t.K = s.K ∧
    t.KLEN = s.KLEN ∧ t.PF = s.PF ∧ t.input = s.input ∧ t.output = s.output ++ [0x0000#16]) ∧
  (∀ s, s.PHASE = .load → s.KLEN.val = 0 →
    exec .ksa s = .next { s with PHASE := .failed, output := s.output ++ [0x0100#16] }) ∧
  ∀ s, s.PHASE ≠ .load → exec .ksa s = .next { s with PF := true, output := s.output ++ [0x0200#16] }

/-- 41_key_scheduler.md R131, R134: `KSA` runs in `LOAD` whenever `KLEN` is not 0, whatever K holds; its frame; and
its result does not depend on what S held before. -/
def Obligations.KsaFrameAndIndependenceOfOldS : Prop :=
  ∀ s, s.PHASE = .load → s.KLEN.val ≠ 0 → ∃ t, exec .ksa s = .next t ∧ t.S.wf ∧
    (∀ a : Byte, (t.S.read a.toNat).isSome = true) ∧ t.I = 0#8 ∧ t.J = 0#8 ∧ t.PHASE = .run ∧ t.K = s.K ∧
    t.KLEN = s.KLEN ∧ t.PF = s.PF ∧ t.input = s.input ∧ t.output = s.output ++ [0x0000#16] ∧
    ∀ m, exec .ksa { s with S := m } = .next t

/-- 41_key_scheduler.md R135: after a successful `KSA`, S is a permutation of 0..255. -/
def Obligations.KsaLeavesAPermutation : Prop :=
  ∀ s, s.PHASE = .load → s.KLEN.val ≠ 0 → ∃ t, exec .ksa s = .next t ∧ HoldsPermutation t.S

/-- 41_key_scheduler.md R136: a key longer than 256 bytes schedules as its first 256 bytes. -/
def Obligations.LongKeysScheduleAsTheirPrefix : Prop :=
  ∀ key : List Byte, 256 < key.length → schedule key = schedule (key.take 256)

/-- 42_keystream_generator.md R151, R156: `NEXT`, its word; in `RUN` with S holding the function `f` it is
`(S, I, J, k) = prga(S, I, J)` with the response `{0x00, k}` and nothing else changed; elsewhere it raises
`WrongPhase`. -/
def Obligations.NextIsOneGeneratorStep : Prop :=
  decode 0x0400#16 = .ok .next ∧
  (∀ s f, s.PHASE = .run → HoldsFunction s.S f → ∃ t, exec .next s = .next t ∧
    HoldsFunction t.S (prga ⟨f, s.I, s.J⟩).1.S ∧ t.I = (prga ⟨f, s.I, s.J⟩).1.I ∧
    t.J = (prga ⟨f, s.I, s.J⟩).1.J ∧ t.output = s.output ++ [(0x00#8 ++ (prga ⟨f, s.I, s.J⟩).2 : BitVec 16)] ∧
    t.K = s.K ∧ t.KLEN = s.KLEN ∧ t.PHASE = .run ∧ t.PF = s.PF ∧ t.input = s.input) ∧
  ∀ s, s.PHASE ≠ .run → exec .next s = .next { s with PF := true, output := s.output ++ [0x0200#16] }

/-- 43_cipher_transform.md R171, R172: `XORB m`, its word; in `RUN` with S holding the function `f` it is one `prga`
step with the response `{0x00, m XOR k}` and nothing else changed, the new state the same for every `m`; elsewhere
it raises `WrongPhase`. -/
def Obligations.XorbXorsTheMessageByte : Prop :=
  (∀ m : Byte, decode (0x05#8 ++ m) = .ok (.xorb m)) ∧
  (∀ s m f, s.PHASE = .run → HoldsFunction s.S f → ∃ t, exec (.xorb m) s = .next t ∧
    HoldsFunction t.S (prga ⟨f, s.I, s.J⟩).1.S ∧ t.I = (prga ⟨f, s.I, s.J⟩).1.I ∧
    t.J = (prga ⟨f, s.I, s.J⟩).1.J ∧
    t.output = s.output ++ [(0x00#8 ++ (m ^^^ (prga ⟨f, s.I, s.J⟩).2) : BitVec 16)] ∧
    t.K = s.K ∧ t.KLEN = s.KLEN ∧ t.PHASE = .run ∧ t.PF = s.PF ∧ t.input = s.input ∧
    ∀ m', ∃ w, exec (.xorb m') s = .next { t with output := s.output ++ [w] }) ∧
  ∀ s m, s.PHASE ≠ .run → exec (.xorb m) s = .next { s with PF := true, output := s.output ++ [0x0200#16] }

/-- 42_keystream_generator.md R151, R155, 10_state.md R37: the frame of a generator step, in every state of phase
`RUN`: of S only the cells at the new `I` and the new `J` change, and they change places; no other field but the
cursors and the response. -/
def Obligations.GeneratorStepFrame : Prop :=
  ∀ s i, s.PHASE = .run → (i = .next ∨ ∃ m, i = .xorb m) → ∃ (t : State) (d : Byte), exec i s = .next t ∧
    t.I = s.I + 1#8 ∧ t.J = s.J + cellS s.S t.I ∧
    t.S.read t.I.toNat = some (cellS s.S t.J) ∧ t.S.read t.J.toNat = some (cellS s.S t.I) ∧
    (∀ n, n ≠ t.I.toNat → n ≠ t.J.toNat → t.S.read n = s.S.read n) ∧
    t.K = s.K ∧ t.KLEN = s.KLEN ∧ t.PHASE = s.PHASE ∧ t.PF = s.PF ∧ t.input = s.input ∧
    t.output = s.output ++ [(0x00#8 ++ d : BitVec 16)]

/-- 42_keystream_generator.md R154: `NEXT` keeps S a permutation, and so does `XORB`. -/
def Obligations.GeneratorStepKeepsThePermutation : Prop :=
  ∀ s i, s.PHASE = .run → (i = .next ∨ ∃ m, i = .xorb m) → HoldsPermutation s.S →
    ∃ t, exec i s = .next t ∧ HoldsPermutation t.S

/-- 43_cipher_transform.md R173: `NEXT` and `XORB m` are the same generator step and differ only in the response
byte, `k` and `m XOR k`; `XORB 0x00` is `NEXT`; `XORB 0xFF` answers the complement of `k`. -/
def Obligations.XorbAndNextDifferOnlyInTheByte : Prop :=
  (∀ s, s.PHASE = .run → ∃ (t : State) (k : Byte), exec .next s = .next { t with output := s.output ++ [(0x00#8 ++ k : BitVec 16)] } ∧
    (∀ m, exec (.xorb m) s = .next { t with output := s.output ++ [(0x00#8 ++ (m ^^^ k) : BitVec 16)] }) ∧
    exec (.xorb 0xFF#8) s = .next { t with output := s.output ++ [(0x00#8 ++ ~~~k : BitVec 16)] }) ∧
  ∀ s, exec (.xorb 0x00#8) s = exec .next s

/-- 42_keystream_generator.md R153: `I` counts the generator steps mod 256: after `n` commands `NEXT` or `XORB` in
any mixture, all answered `OK`, from a state of phase `RUN`, `I` has moved on by `n mod 256`. -/
def Obligations.CursorICountsGeneratorSteps : Prop :=
  ∀ (is : List Instr) s, s.PHASE = .run → (∀ i ∈ is, i = .next ∨ ∃ m, i = .xorb m) →
    ∃ t ws, issueAll is s = some (t, ws) ∧ t.I.toNat = (s.I.toNat + is.length) % 256 ∧ t.PHASE = .run ∧
      ws.length = is.length ∧ ∀ w ∈ ws, codeOf w = 0x00#8

/-- 44_observation.md R201, R202: `RDS a`, its word; in `RUN` it answers `S[a]` and changes nothing; elsewhere it
raises `WrongPhase`. -/
def Obligations.RdsReadsOneCell : Prop :=
  (∀ a : Byte, decode (0x06#8 ++ a) = .ok (.rds a)) ∧
  (∀ s a v, s.PHASE = .run → s.S.read a.toNat = some v →
    exec (.rds a) s = .next { s with output := s.output ++ [(0x00#8 ++ v : BitVec 16)] }) ∧
  ∀ s a, s.PHASE ≠ .run → exec (.rds a) s = .next { s with PF := true, output := s.output ++ [0x0200#16] }

/-- 44_observation.md R205, 10_state.md R30: `RDR`, its five words and no other (a word 0x0705..0x07FF is illegal and
sets `PF`), and in every phase the register's byte as the answer, with nothing changed. -/
def Obligations.RdrReadsTheRegisters : Prop :=
  decode 0x0700#16 = .ok .rdrStatus ∧ decode 0x0701#16 = .ok .rdrI ∧ decode 0x0702#16 = .ok .rdrJ ∧
  decode 0x0703#16 = .ok .rdrKlenl ∧ decode 0x0704#16 = .ok .rdrKlenh ∧
  (∀ arg : Byte, 5 ≤ arg.toNat → decode (0x07#8 ++ arg) = .error .registerNumber ∧
    ∀ s rest, s.input = .command (0x07#8 ++ arg) :: rest → ∃ t, step s = .next t ∧ t.PF = true) ∧
  ∀ s, exec .rdrStatus s = .next { s with output := s.output ++
      [BitVec.ofNat 16 ((if s.PF then 4 else 0) +
        match s.PHASE with | .load => 0 | .run => 1 | .failed => 2)] } ∧
    exec .rdrI s = .next { s with output := s.output ++ [(0x00#8 ++ s.I : BitVec 16)] } ∧
    exec .rdrJ s = .next { s with output := s.output ++ [(0x00#8 ++ s.J : BitVec 16)] } ∧
    exec .rdrKlenl s = .next { s with output := s.output ++ [BitVec.ofNat 16 (s.KLEN.val % 256)] } ∧
    exec .rdrKlenh s = .next { s with output := s.output ++ [BitVec.ofNat 16 (s.KLEN.val / 256)] }

/-- 44_observation.md R206: the values `RDR` can return. `STATUS` is one of six; `I` and `J` are 0x00 outside `RUN`
(in a state that meets the invariant); `KLEN = 256 * KLENH + KLENL`; `KLENH = 1` only when `KLEN = 256`, and then
`KLENL = 0x00`. -/
def Obligations.RdrValuesAreInTheirRanges : Prop :=
  (∀ s, ∃ (t : State) (d : Byte), exec .rdrStatus s = .next t ∧ t.output = s.output ++ [(0x00#8 ++ d : BitVec 16)] ∧
    d ∈ [0x00#8, 0x01#8, 0x02#8, 0x04#8, 0x05#8, 0x06#8]) ∧
  (∀ s, MachineInv s → s.PHASE ≠ .run → exec .rdrI s = .next { s with output := s.output ++ [0x0000#16] } ∧
    exec .rdrJ s = .next { s with output := s.output ++ [0x0000#16] }) ∧
  ∀ s, ∃ (t u : State) (lo hi : Byte), exec .rdrKlenl s = .next t ∧ t.output = s.output ++ [(0x00#8 ++ lo : BitVec 16)] ∧
    exec .rdrKlenh s = .next u ∧ u.output = s.output ++ [(0x00#8 ++ hi : BitVec 16)] ∧
    s.KLEN.val = 256 * hi.toNat + lo.toNat ∧ hi.toNat ≤ 1 ∧
    (hi = 0x01#8 → s.KLEN.val = 256 ∧ lo = 0x00#8)

/-- 44_observation.md R200: an observation command that the phase admits may be put before any command: it leaves
the state but for its own response, the command answers the same word, and the final state differs only in that
one more response. -/
def Obligations.ObservationDisturbsNothing : Prop :=
  ∀ s o i, (o = .rdrStatus ∨ o = .rdrI ∨ o = .rdrJ ∨ o = .rdrKlenl ∨ o = .rdrKlenh ∨
      (s.PHASE = .run ∧ ∃ a, o = .rds a)) →
    ∃ (d : Byte) (u : State) (r : RspWord), exec o s = .next { s with output := s.output ++ [(0x00#8 ++ d : BitVec 16)] } ∧
      exec i s = .next { u with output := s.output ++ [r] } ∧
      exec i { s with output := s.output ++ [(0x00#8 ++ d : BitVec 16)] } =
        .next { u with output := s.output ++ [(0x00#8 ++ d : BitVec 16)] ++ [r] }

/-! ### Faults and the phase machine -/

/-- 60_exceptions.md R221: `InvalidKey` in full: raised only by `KSA` in `LOAD` with `KLEN = 0`, always there, with
`PHASE <- FAILED` as its whole effect and the response 0x0100; in `FAILED`, `CLR` and `RDR` are admitted and answer
`OK`, and every other command raises `WrongPhase`; of all of them only `CLR` leaves `FAILED`. -/
def Obligations.InvalidKeyInFull : Prop :=
  (∀ s, s.PHASE = .load → s.KLEN.val = 0 →
    exec .ksa s = .next { s with PHASE := .failed, output := s.output ++ [0x0100#16] }) ∧
  (∀ s i t, exec i s = .next t → t.output = s.output ++ [0x0100#16] →
    i = .ksa ∧ s.PHASE = .load ∧ s.KLEN.val = 0) ∧
  ∀ s i, s.PHASE = .failed →
    if i = .clr ∨ i = .rdrStatus ∨ i = .rdrI ∨ i = .rdrJ ∨ i = .rdrKlenl ∨ i = .rdrKlenh then
      ∃ (t : State) (d : Byte), exec i s = .next t ∧ t.output = s.output ++ [(0x00#8 ++ d : BitVec 16)] ∧
        (i = .clr ∨ t.PHASE = .failed)
    else exec i s = .next { s with PF := true, output := s.output ++ [0x0200#16] }

/-- 60_exceptions.md R222: a command that the table does not admit raises `WrongPhase`: `PF` is set, the response is
0x0200, nothing else changes; a command that it admits never answers 0x0200, and
answers 0x0100 (`InvalidKey`) exactly if it is `KSA` with `KLEN = 0`. -/
def Obligations.OutOfPhaseCommandsAreRefused : Prop :=
  (∀ s i, admitted i s.PHASE = false →
    exec i s = .next { s with PF := true, output := s.output ++ [0x0200#16] }) ∧
  ∀ s i, admitted i s.PHASE = true →
    ∃ t w, exec i s = .next t ∧ t.output = s.output ++ [w] ∧ w ≠ 0x0200#16 ∧
      (w = 0x0100#16 ↔ i = .ksa ∧ s.KLEN.val = 0)

/-- 60_exceptions.md R232: the phase machine: what each command answers and the phase it leaves. -/
def Obligations.PhaseMachineFollowsTheTable : Prop :=
  ∀ s i, ∃ (t : State) (d : Byte), exec i s = .next t ∧
    t.output = s.output ++ [(codeAnswered i s.PHASE (s.KLEN.val == 0) ++ d : BitVec 16)] ∧
    t.PHASE = phaseAfter i s.PHASE (s.KLEN.val == 0)

/-- 60_exceptions.md R220, R231: faults are precise: when a command's response is a fault response, the state is
the state before but for the one field the fault writes, and `DATA` is 0x00. -/
def Obligations.FaultResponsesArePrecise : Prop :=
  ∀ s i, ∃ t w, exec i s = .next t ∧ t.output = s.output ++ [w] ∧
    (codeOf w = 0x00#8 ∨
      (w = 0x0100#16 ∧ i = .ksa ∧ s.PHASE = .load ∧ s.KLEN.val = 0 ∧
        t = { s with PHASE := .failed, output := s.output ++ [w] }) ∨
      (w = 0x0200#16 ∧ admitted i s.PHASE = false ∧ t = { s with PF := true, output := s.output ++ [w] }))

/-- 60_exceptions.md R230: the order of the tests: a malformed `KSA` is `IllegalCommand` in every phase, also with
an empty key; a `KSA` in `FAILED` or `RUN` is `WrongPhase`, whatever `KLEN` is. -/
def Obligations.FaultPriority : Prop :=
  (∀ (s : State) (arg : Byte) rest, arg ≠ 0x00#8 → s.input = .command (0x03#8 ++ arg) :: rest →
    step s = .next { s with PF := true, input := rest, output := s.output ++ [0x0300#16] }) ∧
  ∀ s rest, s.PHASE = .failed ∨ s.PHASE = .run → s.input = .command 0x0300#16 :: rest →
    step s = .next { s with PF := true, input := rest, output := s.output ++ [0x0200#16] }

/-- 60_exceptions.md R236: the only exits from `FAILED` are `CLR` and reset, and they lead to `LOAD` with
`KLEN = 0` and `PF = 0`. -/
def Obligations.FailedIsLeftOnlyByClrOrReset : Prop :=
  ∀ s t, step s = .next t → s.PHASE = .failed → t.PHASE ≠ .failed →
    ((∃ rest, s.input = .command 0x0100#16 :: rest) ∨ (∃ rest, s.input = .reset :: rest) ∨
      ∃ w rest, s.input = .resetDuring w :: rest) ∧
    t.PHASE = .load ∧ t.KLEN.val = 0 ∧ t.PF = false

/-- 10_state.md R28: `RUN` is entered only by a `KSA` that completes with `OK`, `FAILED` only by a `KSA` executed in
`LOAD` with `KLEN = 0`, and `LOAD` only by `CLR` and reset. -/
def Obligations.PhasesAreEnteredOnlyAsStated : Prop :=
  ∀ s t, step s = .next t → s.PHASE ≠ t.PHASE →
    (t.PHASE = .run → s.PHASE = .load ∧ s.KLEN.val ≠ 0 ∧ t.output = s.output ++ [0x0000#16] ∧
      ∃ rest, s.input = .command 0x0300#16 :: rest) ∧
    (t.PHASE = .failed → s.PHASE = .load ∧ s.KLEN.val = 0 ∧ t.output = s.output ++ [0x0100#16] ∧
      ∃ rest, s.input = .command 0x0300#16 :: rest) ∧
    (t.PHASE = .load → (∃ rest, s.input = .command 0x0100#16 :: rest) ∨ (∃ rest, s.input = .reset :: rest) ∨
      ∃ w rest, s.input = .resetDuring w :: rest)

/-- 10_state.md R29: `PF` is set by every `WrongPhase` and `IllegalCommand` and by nothing else, and cleared only by
`CLR` and reset. -/
def Obligations.PfIsSticky : Prop :=
  (∀ s t, step s = .next t → s.PF = false → t.PF = true →
    ∃ w ∈ [0x0200#16, 0x0300#16], t.output = s.output ++ [w]) ∧
  (∀ s t, step s = .next t → (t.output = s.output ++ [0x0200#16] ∨ t.output = s.output ++ [0x0300#16]) →
    t.PF = true) ∧
  ∀ s t, step s = .next t → s.PF = true → t.PF = false →
    (∃ rest, s.input = .command 0x0100#16 :: rest) ∨ (∃ rest, s.input = .reset :: rest) ∨
      ∃ w rest, s.input = .resetDuring w :: rest

/-- 10_state.md R29: no command's behaviour depends on `PF`, and only `RDR STATUS` shows it: with `PF` changed every
other command answers the same word and leaves the same state but for `PF`. -/
def Obligations.NoCommandDependsOnPf : Prop :=
  ∀ s i b, i ≠ .rdrStatus → ∃ t u, exec i s = .next t ∧ exec i { s with PF := b } = .next u ∧
    t = { u with PF := t.PF }

/-- 10_state.md R25, R26, R37: only `KEYB` and `CLR` write `K` or `KLEN`; no command touches the command port. -/
def Obligations.OnlyKeybAndClrWriteTheKey : Prop :=
  ∀ s i t, exec i s = .next t → t.input = s.input ∧
    (t.K ≠ s.K ∨ t.KLEN ≠ s.KLEN → i = .clr ∨ ∃ b, i = .keyb b)

/-- 10_state.md R25: no command returns a cell of K: the response of a command does not depend on what K holds, and
neither does the state it leaves but for K, unless the command is `KSA`, which reads K into S. -/
def Obligations.ResponsesDoNotShowTheKeyBuffer : Prop :=
  ∀ s i m, ∃ t u, exec i s = .next t ∧ exec i { s with K := m } = .next u ∧ t.output = u.output ∧
    (i ≠ .ksa → t = { u with K := t.K })

/-! ### Invariants -/

/-- 10_state.md R33 to R36 at reset: the invariant holds. -/
def Obligations.InvariantHoldsAtReset : Prop := MachineInv State.reset

/-- 10_state.md R33 (Invariant P), R34 (C), R35 (K), R36 (F), with the canonical form of both memories: every step
from a state that meets them leads to one that does. -/
def Obligations.EveryStepKeepsTheInvariant : Prop :=
  ∀ s t, MachineInv s → step s = .next t → MachineInv t

/-- The model's memories keep their canonical form in every step from every state in which they have it, whether or
not a run reaches it: this is about the model's way of holding S and K (log entry 4), not a rule of the spec. -/
def Obligations.EveryStepKeepsMemoriesCanonical : Prop :=
  ∀ s t, s.S.wf → s.K.wf → step s = .next t → t.S.wf ∧ t.K.wf

/-! ### The transform call -/

/-- 43_cipher_transform.md R181: started in any state, `TRANSFORM` computes `transform`, the failure included. -/
def Obligations.TransformCallComputesTransform : Prop :=
  ∀ key message s, ∃ t, transformCall key message s =
    some (t, match transform key message with | none => .invalidKey | some out => .output out)

/-- 43_cipher_transform.md R182: for every key that is not empty and every message, `TRANSFORM` of the key and of
what `TRANSFORM` gave returns the message, whatever states the two calls start in. -/
def Obligations.TransformCallIsAnInvolution : Prop :=
  ∀ key message s s', key ≠ [] → ∃ t t' out, transformCall key message s = some (t, .output out) ∧
    transformCall key out s' = some (t', .output message)

/-- 43_cipher_transform.md R184: `TRANSFORM` with the empty key returns `InvalidKey` for every message and delivers
no output byte: its three responses are those of `CLR`, `KSA`, `CLR`. -/
def Obligations.EmptyKeyCallFailsWithoutOutput : Prop :=
  ∀ message s, ∃ t, transformCall [] message s = some (t, .invalidKey) ∧
    t.output = s.output ++ [0x0000#16, 0x0100#16, 0x0000#16]

/-- 43_cipher_transform.md R175, R183: the output of a call has as many bytes as the message, and so is empty for
the empty message, for every key that is not empty. -/
def Obligations.OutputIsAsLongAsTheMessage : Prop :=
  ∀ key message s, key ≠ [] → ∃ t out, transformCall key message s = some (t, .output out) ∧
    out.length = message.length

/-- 43_cipher_transform.md R180, 60_exceptions.md R224: a call started in any state meets no `WrongPhase` and no
`IllegalCommand`; the one fault it can meet is `InvalidKey`, exactly when the key is empty; and it leaves the reset
state. -/
def Obligations.TransformCallMeetsNoInterfaceFault : Prop :=
  ∀ key message s, ∃ t r ws, transformCall key message s = some (t, r) ∧ t.output = s.output ++ ws ∧
    (∀ w ∈ ws, codeOf w = 0x00#8 ∨ w = 0x0100#16) ∧ (0x0100#16 ∈ ws ↔ key = []) ∧ (r = .invalidKey ↔ key = []) ∧
    t = { State.reset with input := s.input, output := t.output }

/-! ### Instances -/

/-- 60_exceptions.md R248: instances share nothing: a step of one leaves every other as it is, and steps of two
instances give the same in either order. -/
def Obligations.InstancesShareNothing : Prop :=
  (∀ n p q, stepInstance n p = some q → q.length = p.length ∧ ∀ m, m ≠ n → q[m]? = p[m]?) ∧
  ∀ m n p, m ≠ n → (stepInstance n p).bind (stepInstance m) = (stepInstance m p).bind (stepInstance n)
end

