-- ==== Sys2Proof/Laws/PerInstr.lean ====
section
/-! SUPPORT. Facts about every command as syntax, one lemma per constructor: the word of a command has the form its
format asks for (30_encoding.md R82). -/

namespace Sys2Proof.Laws

/-- The word of the command has the form of its format. -/
def EncodedWellFormed.Statement (i : Instr) : Prop := wordWellFormed (encode i) = true

/-- A word `{op, arg}` seen as a number. -/
theorem wordOf_toNat (op arg : Byte) : (wordOf op arg).toNat = op.toNat * 256 + arg.toNat := by
  have := arg.isLt
  simp only [wordOf, BitVec.toNat_append, Nat.shiftLeft_eq]
  rw [← Nat.shiftLeft_eq, ← Nat.shiftLeft_add_eq_or_of_lt (by omega), Nat.shiftLeft_eq]

/-- A word whose opcode is of format B is well formed with every operand. -/
theorem wordWellFormed_formatB {op : Byte} (h : formatOf op.toNat = some .b) (arg : Byte) :
    wordWellFormed (wordOf op arg) = true := by
  have := arg.isLt
  have hq : (wordOf op arg).toNat / 256 = op.toNat := by rw [wordOf_toNat]; omega
  simp only [wordWellFormed, hq, h, Format.admits]

theorem EncodedWellFormed.clr : EncodedWellFormed.Statement .clr := by rfl
theorem EncodedWellFormed.keyb (b : Byte) : EncodedWellFormed.Statement (.keyb b) := wordWellFormed_formatB (by rfl) b
theorem EncodedWellFormed.ksa : EncodedWellFormed.Statement .ksa := by rfl
theorem EncodedWellFormed.next : EncodedWellFormed.Statement .next := by rfl
theorem EncodedWellFormed.xorb (m : Byte) : EncodedWellFormed.Statement (.xorb m) := wordWellFormed_formatB (by rfl) m
theorem EncodedWellFormed.rds (a : Byte) : EncodedWellFormed.Statement (.rds a) := wordWellFormed_formatB (by rfl) a
theorem EncodedWellFormed.rdrStatus : EncodedWellFormed.Statement .rdrStatus := by rfl
theorem EncodedWellFormed.rdrI : EncodedWellFormed.Statement .rdrI := by rfl
theorem EncodedWellFormed.rdrJ : EncodedWellFormed.Statement .rdrJ := by rfl
theorem EncodedWellFormed.rdrKlenl : EncodedWellFormed.Statement .rdrKlenl := by rfl
theorem EncodedWellFormed.rdrKlenh : EncodedWellFormed.Statement .rdrKlenh := by rfl

end Sys2Proof.Laws
end

