-- ==== Sys2Proof/Laws/Decode.lean ====
section
/-! SUPPORT. The fields of a command word: taking a word apart and putting it together. -/

namespace Sys2Proof.Laws

/-- `OP` as a number. -/
theorem opOf_toNat (w : CmdWord) : (opOf w).toNat = w.toNat / 256 := by
  have := w.isLt
  simp only [opOf, BitVec.extractLsb'_toNat, Nat.shiftRight_eq_div_pow]
  omega

/-- `ARG` as a number. -/
theorem argOf_toNat (w : CmdWord) : (argOf w).toNat = w.toNat % 256 := by
  simp only [argOf, BitVec.extractLsb'_toNat, Nat.shiftRight_eq_div_pow]
  omega

@[simp] theorem opOf_wordOf (op arg : Byte) : opOf (wordOf op arg) = op := by
  apply BitVec.eq_of_toNat_eq
  have := arg.isLt
  rw [opOf_toNat, wordOf_toNat]
  omega

@[simp] theorem argOf_wordOf (op arg : Byte) : argOf (wordOf op arg) = arg := by
  apply BitVec.eq_of_toNat_eq
  have := arg.isLt
  rw [argOf_toNat, wordOf_toNat]
  omega

/-- A word is made of its two fields and of nothing else. -/
theorem wordOf_fields (w : CmdWord) : wordOf (opOf w) (argOf w) = w := by
  apply BitVec.eq_of_toNat_eq
  rw [wordOf_toNat, opOf_toNat, argOf_toNat]
  omega

end Sys2Proof.Laws
end

