-- ==== Sys2Proof/Laws/HostProcedure.lean ====
section
/-! SUPPORT. The fields of a response word, and what issuing a command gives once the command's effect is known. -/

namespace Sys2Proof.Machine

@[simp] theorem codeOf_responseWord (code data : Byte) : codeOf (responseWord code data) = code :=
  Laws.opOf_wordOf code data

@[simp] theorem dataOf_responseWord (code data : Byte) : dataOf (responseWord code data) = data :=
  Laws.argOf_wordOf code data

/-- Issuing a command is executing it: the state it leaves, and the word it delivers. -/
theorem issue_of_exec {i : Instr} {s t : State} {w : RspWord} (hd : decode (encode i) = .ok i)
    (h : exec i s = .next t) (ho : t.output = s.output ++ [w]) : issue i s = some (t, w) := by
  have hs : step (placeCommand (encode i) s) = .next t := by
    simp only [step, serve, placeCommand, State.setInput, acceptWord, hd]
    exact h
  simp [issue, hs, ho]

/-- Issuing one command and then the rest. -/
theorem issueAll_cons {i : Instr} {is : List Instr} {s t : State} {w : RspWord} (h : issue i s = some (t, w)) :
    issueAll (i :: is) s = (issueAll is t).map fun q => (q.1, w :: q.2) := by
  simp only [issueAll, h, Option.bind_some]

end Sys2Proof.Machine
end

