-- ==== Sys2Proof/Laws/Memory.lean ====
section
/-! SUPPORT. Byte memories: what a read gives after a write, the canonical form, the swap, and the identity. -/

namespace Sys2Proof.Machine

@[simp] theorem Memory.read_nil (x : Nat) : Memory.read [] x = none := rfl

theorem Memory.read_cons (c : Host.Cell) (m : Memory) (x : Nat) :
    Memory.read (c :: m) x = if c.1 = x then some c.2 else Memory.read m x := rfl

/-- A read after a write: the byte written at that index, what was there before elsewhere. -/
theorem Memory.read_write (m : Memory) (x : Nat) (v : Byte) (y : Nat) :
    (m.write x v).read y = if y = x then some v else m.read y := by
  induction m with
  | nil => simp only [Memory.write, Memory.read_cons, Memory.read_nil, eq_comm]
  | cons c m ih =>
    rcases lt_trichotomy c.1 x with h | h | h
    · have hw : Memory.write (c :: m) x v = c :: Memory.write m x v := by simp [Memory.write, h]
      rw [hw, Memory.read_cons, ih, Memory.read_cons]
      split_ifs <;> first | rfl | omega
    · have hw : Memory.write (c :: m) x v = (x, v) :: m := by simp [Memory.write, h]
      rw [hw, Memory.read_cons, Memory.read_cons, h]
      split_ifs <;> first | rfl | omega
    · have hw : Memory.write (c :: m) x v = (x, v) :: c :: m := by
        simp [Memory.write, show ¬ c.1 < x by omega, show ¬ c.1 = x by omega]
      rw [hw, Memory.read_cons, Memory.read_cons]
      split_ifs <;> first | rfl | omega

@[simp] theorem Memory.read_write_same (m : Memory) (x : Nat) (v : Byte) : (m.write x v).read x = some v := by
  simp [Memory.read_write]

theorem Memory.read_write_other (m : Memory) {x y : Nat} (v : Byte) (h : y ≠ x) :
    (m.write x v).read y = m.read y := by
  simp [Memory.read_write, h]

/-- What is listed after a write was written or was listed before. -/
theorem Memory.mem_write {m : Memory} {x : Nat} {v : Byte} {c : Host.Cell} (h : c ∈ m.write x v) :
    c = (x, v) ∨ c ∈ m := by
  induction m with
  | nil => simpa [Memory.write] using h
  | cons d m ih =>
    simp only [Memory.write] at h
    split_ifs at h
    · rcases List.mem_cons.1 h with rfl | h
      · simp
      · rcases ih h with h | h <;> simp [h]
    · rcases List.mem_cons.1 h with rfl | h <;> simp [*]
    · rcases List.mem_cons.1 h with rfl | h
      · simp
      · exact .inr h

theorem Memory.wf_nil : Memory.wf [] := ⟨List.Pairwise.nil, by simp⟩

/-- A write inside 0..255 keeps the canonical form. -/
theorem Memory.wf_write {m : Memory} (hm : m.wf) {x : Nat} (hx : x < Config.N) (v : Byte) : (m.write x v).wf := by
  refine ⟨?_, fun c hc => ?_⟩
  · obtain ⟨hp, -⟩ := hm
    induction m with
    | nil => simp [Memory.write]
    | cons c m ih =>
      obtain ⟨hc, hp⟩ := List.pairwise_cons.1 hp
      simp only [Memory.write]
      split_ifs with h1 h2
      · refine List.pairwise_cons.2 ⟨fun d hd => ?_, ih hp⟩
        rcases Memory.mem_write hd with rfl | hd
        · exact h1
        · exact hc d hd
      · exact List.pairwise_cons.2 ⟨fun d hd => h2 ▸ hc d hd, hp⟩
      · refine List.pairwise_cons.2 ⟨fun d hd => ?_, List.pairwise_cons.2 ⟨hc, hp⟩⟩
        rcases List.mem_cons.1 hd with rfl | hd
        · show x < d.1
          omega
        · show x < d.1
          have := hc d hd
          omega
  · rcases Memory.mem_write hc with rfl | hc
    · exact hx
    · exact hm.2 c hc

/-- The swap exchanges two cells and leaves the others. -/
theorem read_swapCells (m : Memory) (a b : Byte) (y : Nat) :
    (swapCells m a b).read y =
      if y = b.toNat then some (cellS m a) else if y = a.toNat then some (cellS m b) else m.read y := by
  simp only [swapCells, Memory.read_write]

/-- The swap keeps the canonical form. -/
theorem wf_swapCells {m : Memory} (hm : m.wf) (a b : Byte) : (swapCells m a b).wf :=
  Memory.wf_write (Memory.wf_write hm a.isLt _) b.isLt _

/-- A cell that holds a value reads as that value. -/
theorem cellS_of_read {m : Memory} {a v : Byte} (h : m.read a.toNat = some v) : cellS m a = v := by
  simp [cellS, h]

/-- A key cell that holds a value reads as that value. -/
theorem cellK_of_read {m : Memory} {n : Nat} {v : Byte} (h : m.read n = some v) : cellK m n = v := by
  simp [cellK, h]

/-- A memory that lists a function over a list of indices reads as that function on them. -/
theorem Memory.read_map (f : Nat → Byte) (l : List Nat) (x : Nat) :
    Memory.read (l.map fun a => (a, f a)) x = if x ∈ l then some (f x) else none := by
  induction l with
  | nil => simp
  | cons a l ih =>
    simp only [List.map_cons, Memory.read_cons, ih, List.mem_cons]
    by_cases h : a = x
    · subst h
      simp
    · simp [h, Ne.symm h]

/-- The identity: index `x` holds `x`. -/
theorem read_identityMemory (x : Nat) :
    identityMemory.read x = if x < Config.N then some (BitVec.ofNat 8 x) else none := by
  simp only [identityMemory, Memory.read_map (fun a => BitVec.ofNat 8 a), List.mem_range]

/-- The identity is in canonical form. -/
theorem wf_identityMemory : Memory.wf identityMemory := by
  refine ⟨?_, fun c hc => ?_⟩
  · simp only [identityMemory, List.pairwise_map]
    exact List.pairwise_lt_range
  · simp only [identityMemory, List.mem_map, List.mem_range] at hc
    obtain ⟨a, ha, rfl⟩ := hc
    exact ha

/-- The key schedule leaves S in canonical form, whatever K holds. -/
theorem wf_scheduledMemory (K : Memory) (klen : Nat) : (scheduledMemory K klen).wf := by
  have h : ∀ (l : List Nat) (p : Memory × Byte), p.1.wf → ((l.foldl (scheduleRound K klen) p).1).wf := by
    intro l
    induction l with
    | nil => exact fun p hp => hp
    | cons r l ih => exact fun p hp => ih _ (wf_swapCells hp _ _)
  unfold scheduledMemory
  exact h _ _ wf_identityMemory

end Sys2Proof.Machine
end

