-- ==== Sys2Proof/Laws/State.lean ====
section
/-! SUPPORT. Each field of the state after each update of it. -/

namespace Sys2Proof.Machine

@[simp] theorem State.setS_S (m : Memory) (s : State) : (s.setS m).S = m := rfl
@[simp] theorem State.setS_K (m : Memory) (s : State) : (s.setS m).K = s.K := rfl
@[simp] theorem State.setS_KLEN (m : Memory) (s : State) : (s.setS m).KLEN = s.KLEN := rfl
@[simp] theorem State.setS_I (m : Memory) (s : State) : (s.setS m).I = s.I := rfl
@[simp] theorem State.setS_J (m : Memory) (s : State) : (s.setS m).J = s.J := rfl
@[simp] theorem State.setS_PHASE (m : Memory) (s : State) : (s.setS m).PHASE = s.PHASE := rfl
@[simp] theorem State.setS_PF (m : Memory) (s : State) : (s.setS m).PF = s.PF := rfl
@[simp] theorem State.setS_input (m : Memory) (s : State) : (s.setS m).input = s.input := rfl
@[simp] theorem State.setS_output (m : Memory) (s : State) : (s.setS m).output = s.output := rfl

@[simp] theorem State.setK_S (m : Memory) (s : State) : (s.setK m).S = s.S := rfl
@[simp] theorem State.setK_K (m : Memory) (s : State) : (s.setK m).K = m := rfl
@[simp] theorem State.setK_KLEN (m : Memory) (s : State) : (s.setK m).KLEN = s.KLEN := rfl
@[simp] theorem State.setK_I (m : Memory) (s : State) : (s.setK m).I = s.I := rfl
@[simp] theorem State.setK_J (m : Memory) (s : State) : (s.setK m).J = s.J := rfl
@[simp] theorem State.setK_PHASE (m : Memory) (s : State) : (s.setK m).PHASE = s.PHASE := rfl
@[simp] theorem State.setK_PF (m : Memory) (s : State) : (s.setK m).PF = s.PF := rfl
@[simp] theorem State.setK_input (m : Memory) (s : State) : (s.setK m).input = s.input := rfl
@[simp] theorem State.setK_output (m : Memory) (s : State) : (s.setK m).output = s.output := rfl

@[simp] theorem State.setKLEN_S (n : Fin (Config.KBUF + 1)) (s : State) : (s.setKLEN n).S = s.S := rfl
@[simp] theorem State.setKLEN_K (n : Fin (Config.KBUF + 1)) (s : State) : (s.setKLEN n).K = s.K := rfl
@[simp] theorem State.setKLEN_KLEN (n : Fin (Config.KBUF + 1)) (s : State) : (s.setKLEN n).KLEN = n := rfl
@[simp] theorem State.setKLEN_I (n : Fin (Config.KBUF + 1)) (s : State) : (s.setKLEN n).I = s.I := rfl
@[simp] theorem State.setKLEN_J (n : Fin (Config.KBUF + 1)) (s : State) : (s.setKLEN n).J = s.J := rfl
@[simp] theorem State.setKLEN_PHASE (n : Fin (Config.KBUF + 1)) (s : State) : (s.setKLEN n).PHASE = s.PHASE := rfl
@[simp] theorem State.setKLEN_PF (n : Fin (Config.KBUF + 1)) (s : State) : (s.setKLEN n).PF = s.PF := rfl
@[simp] theorem State.setKLEN_input (n : Fin (Config.KBUF + 1)) (s : State) : (s.setKLEN n).input = s.input := rfl
@[simp] theorem State.setKLEN_output (n : Fin (Config.KBUF + 1)) (s : State) : (s.setKLEN n).output = s.output := rfl

@[simp] theorem State.setI_S (v : Byte) (s : State) : (s.setI v).S = s.S := rfl
@[simp] theorem State.setI_K (v : Byte) (s : State) : (s.setI v).K = s.K := rfl
@[simp] theorem State.setI_KLEN (v : Byte) (s : State) : (s.setI v).KLEN = s.KLEN := rfl
@[simp] theorem State.setI_I (v : Byte) (s : State) : (s.setI v).I = v := rfl
@[simp] theorem State.setI_J (v : Byte) (s : State) : (s.setI v).J = s.J := rfl
@[simp] theorem State.setI_PHASE (v : Byte) (s : State) : (s.setI v).PHASE = s.PHASE := rfl
@[simp] theorem State.setI_PF (v : Byte) (s : State) : (s.setI v).PF = s.PF := rfl
@[simp] theorem State.setI_input (v : Byte) (s : State) : (s.setI v).input = s.input := rfl
@[simp] theorem State.setI_output (v : Byte) (s : State) : (s.setI v).output = s.output := rfl

@[simp] theorem State.setJ_S (v : Byte) (s : State) : (s.setJ v).S = s.S := rfl
@[simp] theorem State.setJ_K (v : Byte) (s : State) : (s.setJ v).K = s.K := rfl
@[simp] theorem State.setJ_KLEN (v : Byte) (s : State) : (s.setJ v).KLEN = s.KLEN := rfl
@[simp] theorem State.setJ_I (v : Byte) (s : State) : (s.setJ v).I = s.I := rfl
@[simp] theorem State.setJ_J (v : Byte) (s : State) : (s.setJ v).J = v := rfl
@[simp] theorem State.setJ_PHASE (v : Byte) (s : State) : (s.setJ v).PHASE = s.PHASE := rfl
@[simp] theorem State.setJ_PF (v : Byte) (s : State) : (s.setJ v).PF = s.PF := rfl
@[simp] theorem State.setJ_input (v : Byte) (s : State) : (s.setJ v).input = s.input := rfl
@[simp] theorem State.setJ_output (v : Byte) (s : State) : (s.setJ v).output = s.output := rfl

@[simp] theorem State.setPHASE_S (p : Phase) (s : State) : (s.setPHASE p).S = s.S := rfl
@[simp] theorem State.setPHASE_K (p : Phase) (s : State) : (s.setPHASE p).K = s.K := rfl
@[simp] theorem State.setPHASE_KLEN (p : Phase) (s : State) : (s.setPHASE p).KLEN = s.KLEN := rfl
@[simp] theorem State.setPHASE_I (p : Phase) (s : State) : (s.setPHASE p).I = s.I := rfl
@[simp] theorem State.setPHASE_J (p : Phase) (s : State) : (s.setPHASE p).J = s.J := rfl
@[simp] theorem State.setPHASE_PHASE (p : Phase) (s : State) : (s.setPHASE p).PHASE = p := rfl
@[simp] theorem State.setPHASE_PF (p : Phase) (s : State) : (s.setPHASE p).PF = s.PF := rfl
@[simp] theorem State.setPHASE_input (p : Phase) (s : State) : (s.setPHASE p).input = s.input := rfl
@[simp] theorem State.setPHASE_output (p : Phase) (s : State) : (s.setPHASE p).output = s.output := rfl

@[simp] theorem State.setPF_S (b : Bool) (s : State) : (s.setPF b).S = s.S := rfl
@[simp] theorem State.setPF_K (b : Bool) (s : State) : (s.setPF b).K = s.K := rfl
@[simp] theorem State.setPF_KLEN (b : Bool) (s : State) : (s.setPF b).KLEN = s.KLEN := rfl
@[simp] theorem State.setPF_I (b : Bool) (s : State) : (s.setPF b).I = s.I := rfl
@[simp] theorem State.setPF_J (b : Bool) (s : State) : (s.setPF b).J = s.J := rfl
@[simp] theorem State.setPF_PHASE (b : Bool) (s : State) : (s.setPF b).PHASE = s.PHASE := rfl
@[simp] theorem State.setPF_PF (b : Bool) (s : State) : (s.setPF b).PF = b := rfl
@[simp] theorem State.setPF_input (b : Bool) (s : State) : (s.setPF b).input = s.input := rfl
@[simp] theorem State.setPF_output (b : Bool) (s : State) : (s.setPF b).output = s.output := rfl

@[simp] theorem State.setInput_S (es : List HostEvent) (s : State) : (s.setInput es).S = s.S := rfl
@[simp] theorem State.setInput_K (es : List HostEvent) (s : State) : (s.setInput es).K = s.K := rfl
@[simp] theorem State.setInput_KLEN (es : List HostEvent) (s : State) : (s.setInput es).KLEN = s.KLEN := rfl
@[simp] theorem State.setInput_I (es : List HostEvent) (s : State) : (s.setInput es).I = s.I := rfl
@[simp] theorem State.setInput_J (es : List HostEvent) (s : State) : (s.setInput es).J = s.J := rfl
@[simp] theorem State.setInput_PHASE (es : List HostEvent) (s : State) : (s.setInput es).PHASE = s.PHASE := rfl
@[simp] theorem State.setInput_PF (es : List HostEvent) (s : State) : (s.setInput es).PF = s.PF := rfl
@[simp] theorem State.setInput_input (es : List HostEvent) (s : State) : (s.setInput es).input = es := rfl
@[simp] theorem State.setInput_output (es : List HostEvent) (s : State) : (s.setInput es).output = s.output := rfl

@[simp] theorem State.deliver_S (w : RspWord) (s : State) : (s.deliver w).S = s.S := rfl
@[simp] theorem State.deliver_K (w : RspWord) (s : State) : (s.deliver w).K = s.K := rfl
@[simp] theorem State.deliver_KLEN (w : RspWord) (s : State) : (s.deliver w).KLEN = s.KLEN := rfl
@[simp] theorem State.deliver_I (w : RspWord) (s : State) : (s.deliver w).I = s.I := rfl
@[simp] theorem State.deliver_J (w : RspWord) (s : State) : (s.deliver w).J = s.J := rfl
@[simp] theorem State.deliver_PHASE (w : RspWord) (s : State) : (s.deliver w).PHASE = s.PHASE := rfl
@[simp] theorem State.deliver_PF (w : RspWord) (s : State) : (s.deliver w).PF = s.PF := rfl
@[simp] theorem State.deliver_input (w : RspWord) (s : State) : (s.deliver w).input = s.input := rfl
@[simp] theorem State.deliver_output (w : RspWord) (s : State) : (s.deliver w).output = s.output ++ [w] := rfl

end Sys2Proof.Machine
end

