-- ==== Sys2Proof/Laws/Ops.lean ====
section
/-! SUPPORT. For each shared operation, once, everything it does; then what a command and what a step can do. -/

namespace Sys2Proof.Machine

/-- `respond OK(d)` delivers `{0x00, d}` and changes nothing else. -/
theorem respond_eq (d : Byte) (s : State) :
    respond d s = { s with output := s.output ++ [(0x00#8 ++ d : BitVec 16)] } := rfl

/-- Raising `InvalidKey` writes `PHASE` and delivers 0x0100. -/
theorem raiseFault_invalidKey (s : State) :
    raiseFault .invalidKey s = { s with PHASE := .failed, output := s.output ++ [0x0100#16] } := rfl

/-- Raising `WrongPhase` sets `PF` and delivers 0x0200. -/
theorem raiseFault_wrongPhase (s : State) :
    raiseFault .wrongPhase s = { s with PF := true, output := s.output ++ [0x0200#16] } := rfl

/-- Raising `IllegalCommand` sets `PF` and delivers 0x0300. -/
theorem raiseFault_illegalCommand (s : State) :
    raiseFault .illegalCommand s = { s with PF := true, output := s.output ++ [0x0300#16] } := rfl

/-- Starting afresh leaves the reset state but for the two ports. -/
theorem startAfresh_eq (s : State) :
    startAfresh s = { State.reset with input := s.input, output := s.output } := rfl

@[simp] theorem whenPhase_same {p : Phase} {run : State → Outcome} {s : State} (h : s.PHASE = p) :
    whenPhase p run s = run s := by
  simp [whenPhase, h]

@[simp] theorem whenPhase_other {p : Phase} {run : State → Outcome} {s : State} (h : s.PHASE ≠ p) :
    whenPhase p run s = .next (raiseFault .wrongPhase s) := by
  simp [whenPhase, h]

/-- Everything the admission test can do. -/
theorem whenPhase_cases {p : Phase} {run : State → Outcome} {s t : State} (h : whenPhase p run s = .next t) :
    (s.PHASE = p ∧ run s = .next t) ∨ (s.PHASE ≠ p ∧ t = raiseFault .wrongPhase s) := by
  by_cases hp : s.PHASE = p
  · exact .inl ⟨hp, by simpa [hp] using h⟩
  · exact .inr ⟨hp, by simpa [hp, eq_comm] using h⟩

/-- With room in the buffer, one key byte is appended. -/
theorem appendKeyByte_of_lt (b : Byte) {s : State} (h : s.KLEN.val < Config.KBUF) :
    appendKeyByte b s =
      { s with K := s.K.write s.KLEN.val b, KLEN := ⟨s.KLEN.val + 1, Nat.add_lt_add_right h 1⟩ } := by
  simp only [appendKeyByte, dif_pos h]
  rfl

/-- With the buffer full, the key byte is dropped. -/
theorem appendKeyByte_of_ge (b : Byte) {s : State} (h : ¬ s.KLEN.val < Config.KBUF) : appendKeyByte b s = s := by
  simp only [appendKeyByte, dif_neg h]

/-- Appending a key byte touches K and `KLEN` alone (40_context_and_key.md R118). -/
theorem appendKeyByte_frame (b : Byte) (s : State) :
    (appendKeyByte b s).S = s.S ∧ (appendKeyByte b s).I = s.I ∧ (appendKeyByte b s).J = s.J ∧
      (appendKeyByte b s).PHASE = s.PHASE ∧ (appendKeyByte b s).PF = s.PF ∧ (appendKeyByte b s).input = s.input ∧
      (appendKeyByte b s).output = s.output := by
  unfold appendKeyByte
  split <;> simp

/-- What a successful `KSA` changes. -/
theorem runSchedule_eq (s : State) :
    runSchedule s =
      { s with S := scheduledMemory s.K s.KLEN.val, I := 0#8, J := 0#8, PHASE := .run } := rfl

/-- What one generator step changes. -/
theorem generatorStep_eq (s : State) :
    generatorStep s =
      { s with
        I := s.I + 1#8
        J := s.J + cellS s.S (s.I + 1#8)
        S := swapCells s.S (s.I + 1#8) (s.J + cellS s.S (s.I + 1#8)) } := rfl

/-- What a command can do when its phase admits it. -/
inductive Effect (s : State) : Instr → State → Prop where
  | clr : Effect s .clr (respond 0x00#8 (startAfresh s))
  | keyb (b : Byte) (hp : s.PHASE = .load) : Effect s (.keyb b) (respond 0x00#8 (appendKeyByte b s))
  | ksaEmpty (hp : s.PHASE = .load) (hk : s.KLEN.val = 0) : Effect s .ksa (raiseFault .invalidKey s)
  | ksa (hp : s.PHASE = .load) (hk : s.KLEN.val ≠ 0) : Effect s .ksa (respond 0x00#8 (runSchedule s))
  | next (hp : s.PHASE = .run) : Effect s .next (respond (outputByte (generatorStep s)) (generatorStep s))
  | xorb (m : Byte) (hp : s.PHASE = .run) :
    Effect s (.xorb m) (respond (m ^^^ outputByte (generatorStep s)) (generatorStep s))
  | rds (a : Byte) (hp : s.PHASE = .run) : Effect s (.rds a) (respond (cellS s.S a) s)
  | rdrStatus : Effect s .rdrStatus (respond (statusByte s) s)
  | rdrI : Effect s .rdrI (respond s.I s)
  | rdrJ : Effect s .rdrJ (respond s.J s)
  | rdrKlenl : Effect s .rdrKlenl (respond (klenLow s) s)
  | rdrKlenh : Effect s .rdrKlenh (respond (klenHigh s) s)

/-- Everything a command can do: its effect, or the refusal by phase. -/
theorem exec_cases {i : Instr} {s t : State} (h : exec i s = .next t) :
    Effect s i t ∨ t = raiseFault .wrongPhase s := by
  cases i with
  | clr => cases h; exact .inl .clr
  | keyb b =>
    simp only [exec, execKeyb] at h
    rcases whenPhase_cases h with ⟨hp, h⟩ | ⟨-, h⟩
    · cases h; exact .inl (.keyb b hp)
    · exact .inr h
  | ksa =>
    simp only [exec, execKsa] at h
    rcases whenPhase_cases h with ⟨hp, h⟩ | ⟨-, h⟩
    · split_ifs at h with hk
      · cases h; exact .inl (.ksaEmpty hp hk)
      · cases h; exact .inl (.ksa hp hk)
    · exact .inr h
  | next =>
    simp only [exec, execNext] at h
    rcases whenPhase_cases h with ⟨hp, h⟩ | ⟨-, h⟩
    · cases h; exact .inl (.next hp)
    · exact .inr h
  | xorb m =>
    simp only [exec, execXorb] at h
    rcases whenPhase_cases h with ⟨hp, h⟩ | ⟨-, h⟩
    · cases h; exact .inl (.xorb m hp)
    · exact .inr h
  | rds a =>
    simp only [exec, execRds] at h
    rcases whenPhase_cases h with ⟨hp, h⟩ | ⟨-, h⟩
    · cases h; exact .inl (.rds a hp)
    · exact .inr h
  | rdrStatus => cases h; exact .inl .rdrStatus
  | rdrI => cases h; exact .inl .rdrI
  | rdrJ => cases h; exact .inl .rdrJ
  | rdrKlenl => cases h; exact .inl .rdrKlenl
  | rdrKlenh => cases h; exact .inl .rdrKlenh

/-- What a step can do. -/
inductive Served (s : State) : State → Prop where
  | idle (h : s.input = []) : Served s s
  | command {w : CmdWord} {rest : List HostEvent} {i : Instr} {t : State} (h : s.input = .command w :: rest)
    (hd : decode w = .ok i) (he : exec i (s.setInput rest) = .next t) : Served s t
  | illegal {w : CmdWord} {rest : List HostEvent} {e : IllegalWord} (h : s.input = .command w :: rest)
    (hd : decode w = .error e) : Served s (raiseFault .illegalCommand (s.setInput rest))
  | reset {rest : List HostEvent} (h : s.input = .reset :: rest) : Served s (startAfresh (s.setInput rest))
  | resetDuring {w : CmdWord} {rest : List HostEvent} (h : s.input = .resetDuring w :: rest) :
    Served s (startAfresh (s.setInput rest))

/-- Everything a step can do: it serves one event, or there is none. -/
theorem step_cases {s t : State} (h : step s = .next t) : Served s t := by
  unfold step serve at h
  split at h
  · cases h
    exact .idle ‹_›
  · unfold acceptWord at h
    split at h
    · exact .command ‹_› ‹_› h
    · cases h
      exact .illegal ‹_› ‹_›
  · cases h
    exact .reset ‹_›
  · cases h
    exact .resetDuring ‹_›

end Sys2Proof.Machine
end

