-- ==== Sys2Proof/Laws/Permutation.lean ====
section
/-! SUPPORT. A memory that holds a function or a permutation: what a read gives, and what a swap does to it. -/

namespace Sys2Proof.Machine

/-- A cell of a memory that holds `f` reads as `f` says. -/
theorem HoldsFunction.cellS {m : Memory} {f : Perm} (h : HoldsFunction m f) (a : Byte) : cellS m a = f a :=
  cellS_of_read (h a)

/-- The swap of two cells is the swap on the function held. -/
theorem HoldsFunction.swapCells {m : Memory} {f : Perm} (h : HoldsFunction m f) (a b : Byte) :
    HoldsFunction (swapCells m a b) (f.swap a b) := by
  intro x
  rw [read_swapCells, h.cellS, h.cellS, h x]
  simp only [BitVec.toNat_inj, Perm.swap]
  split_ifs <;> simp_all

/-- The swap on a function is the function after a transposition. -/
theorem Perm.swap_eq_comp (f : Perm) (a b : Byte) : f.swap a b = f ∘ Equiv.swap a b := by
  funext x
  simp only [Perm.swap, Function.comp, Equiv.swap_apply_def]
  split_ifs <;> rfl

/-- The swap keeps a bijection one. -/
theorem Perm.swap_bijective {f : Perm} (h : Function.Bijective f) (a b : Byte) :
    Function.Bijective (f.swap a b) := by
  rw [Perm.swap_eq_comp]
  exact h.comp (Equiv.swap a b).bijective

/-- The swap keeps a permutation one (41_key_scheduler.md R135). -/
theorem HoldsPermutation.swapCells {m : Memory} (h : HoldsPermutation m) (a b : Byte) :
    HoldsPermutation (swapCells m a b) := by
  obtain ⟨f, hf, hb⟩ := h
  exact ⟨_, hf.swapCells a b, Perm.swap_bijective hb a b⟩

/-- The identity memory holds the identity. -/
theorem holdsFunction_identityMemory : HoldsFunction identityMemory id := by
  intro a
  simp [read_identityMemory, a.isLt]

/-- The identity memory holds a permutation. -/
theorem holdsPermutation_identityMemory : HoldsPermutation identityMemory :=
  ⟨id, holdsFunction_identityMemory, Function.bijective_id⟩

end Sys2Proof.Machine
end

