-- ==== Sys2Proof/Tests/Slice0.lean ====
section
/-! SUPPORT. Tests on the spec's own values (95_test_vectors.md), and for each statement with hypotheses a concrete
state and operands that meet them all. -/

namespace Sys2Proof.Tests

open Sys2Proof Sys2Proof.Machine

/-! ### The form of a word: each check refuses an ill-formed word (30_encoding.md R82) -/

theorem test_wellFormed_refuses_undefined_opcode : wordWellFormed 0x0800#16 = false := by decide
theorem test_wellFormed_refuses_operand_in_format_z : wordWellFormed 0x0101#16 = false := by decide
theorem test_wellFormed_refuses_register_5 : wordWellFormed 0x0705#16 = false := by decide
theorem test_wellFormed_accepts_keyb_ff : wordWellFormed 0x02FF#16 = true := by decide

/-! ### Decoding, words written bit by bit (95_test_vectors.md V12, 30_encoding.md R92) -/

theorem test_decode_clr : decodeTableWord 16 0b0000000100000000 = some .clr := by decide
theorem test_decode_keyb_K : decodeTableWord 16 0b0000001001001011 = some (.keyb 0x4B#8) := by decide
theorem test_decode_ksa : decodeTableWord 16 0b0000001100000000 = some .ksa := by decide
theorem test_decode_next : decodeTableWord 16 0b0000010000000000 = some .next := by decide
theorem test_decode_xorb_P : decodeTableWord 16 0b0000010101010000 = some (.xorb 0x50#8) := by decide
theorem test_decode_rds_ff : decodeTableWord 16 0b0000011011111111 = some (.rds 0xFF#8) := by decide
theorem test_decode_rdr_klenh : decodeTableWord 16 0b0000011100000100 = some .rdrKlenh := by decide
theorem test_decode_illegal_ksa_operand : decodeTableWord 16 0b0000001100000001 = none := by decide

/-! ### States and observations for the tests -/

/-- In `LOAD` with the key bytes `key` held. -/
def loadState (key : List Byte) (h : key.length < Config.KBUF + 1) : State :=
  { State.reset with
    K := (List.range key.length).map fun n => (n, key.getD n 0#8)
    KLEN := ⟨key.length, h⟩ }

/-- In `LOAD` with a full key buffer of zeros. -/
def fullState : State :=
  { State.reset with K := (List.range 256).map fun n => (n, 0#8), KLEN := ⟨256, by decide⟩ }

/-- In `RUN` with the cells of S that the first generator step of key 4B 45 59 reads (95_test_vectors.md V4). -/
def runState : State :=
  { State.reset with S := [(1, 0xAA#8), (170, 0x51#8), (251, 0x95#8)], KLEN := 3, PHASE := .run }

/-- In `RUN` with the identity in S. -/
def identityState : State :=
  { State.reset with S := identityMemory, K := [(0, 0x4B#8)], KLEN := 1, PHASE := .run }

/-- In `FAILED`. -/
def failedState : State := { State.reset with PHASE := .failed }

/-- The state with one event waiting. -/
def withEvent (e : HostEvent) (s : State) : State := { s with input := [e] }

/-- What `get` shows of the state a command leaves. -/
def after {α : Type} (i : Instr) (s : State) (get : State → α) : Option α := (nextOf (exec i s)).map get

/-- What `get` shows of the state a step leaves. -/
def afterStep {α : Type} (s : State) (get : State → α) : Option α := (nextOf (step s)).map get

/-! ### Commands -/

/-- V11 lines 4 and 5: the second key byte goes to `K[1]`, `KLEN` is 2. -/
theorem test_keyb_appends :
    after (.keyb 0xFF#8) (loadState [0x00#8] (by decide)) (fun t => (t.K, t.KLEN.val, t.output)) =
      some ([(0, 0x00#8), (1, 0xFF#8)], 2, [0x0000#16]) := by decide

/-- V8: with 256 bytes held the 257th is dropped. -/
theorem test_keyb_saturates :
    after (.keyb 0xFF#8) fullState (fun t => (t.K.read 0, t.KLEN.val, t.output)) =
      some (some 0x00#8, 256, [0x0000#16]) := by decide

/-- V11 lines 6 and 7, V14 line 13: `CLR` leaves the reset state, here from `FAILED` with `PF` set. -/
theorem test_clr_leaves_failed :
    after .clr { failedState with PF := true, K := [(0, 0x41#8)] } id =
      some { State.reset with output := [0x0000#16] } := by decide

/-- V3: after rounds 0 to 5 of key 4B 45 59, `jk` is 225, and `S[5]` and `S[225]` have changed places. -/
theorem test_schedule_rounds :
    ((List.range 6).foldl (scheduleRound [(0, 0x4B#8), (1, 0x45#8), (2, 0x59#8)] 3) (identityMemory, 0#8)).2 =
      225#8 := by decide +kernel

/-- V5: cells of S after `KSA` with key 4B 45 59, `J = 0` and `PHASE = RUN`. -/
theorem test_ksa_key :
    after .ksa (loadState [0x4B#8, 0x45#8, 0x59#8] (by decide))
      (fun t => ([t.S.read 0x00, t.S.read 0x01, t.S.read 0xAA, t.S.read 0xFB, t.S.read 0xFF], t.J, t.PHASE)) =
      some ([some 0x1C#8, some 0xAA#8, some 0x51#8, some 0x95#8, some 0x6C#8], 0#8, .run) := by decide +kernel

/-- V14 line 6: an empty key. -/
theorem test_ksa_empty_key :
    after .ksa State.reset id = some { State.reset with PHASE := .failed, output := [0x0100#16] } := by decide

/-- V4 step 1, V15 lines 12 to 16: the byte 0x95, `I = 1`, `J = 170`, the two cells exchanged. -/
theorem test_next_first_step :
    after .next runState (fun t => (t.output, t.I, t.J, t.S.read 1, t.S.read 170)) =
      some ([0x0095#16], 1#8, 170#8, some 0x51#8, some 0xAA#8) := by decide

/-- V9: `I` wraps from 255 to 0 (42_keystream_generator.md R153). -/
theorem test_next_wraps_I :
    after .next { runState with I := 255#8, S := [(0, 0x02#8), (2, 0x05#8), (7, 0x77#8)] } (fun t => (t.output, t.I)) =
      some ([0x0077#16], 0#8) := by decide

/-- V10: `XORB 0x50` answers 0xC5 from the same state. -/
theorem test_xorb_P : after (.xorb 0x50#8) runState (fun t => (t.output, t.J)) = some ([0x00C5#16], 170#8) := by
  decide

/-- V14 line 2: `XORB` in `LOAD` gives no output byte. -/
theorem test_xorb_in_load :
    after (.xorb 0x50#8) State.reset id = some { State.reset with PF := true, output := [0x0200#16] } := by decide

/-- V15 line 8: `S[170]`. -/
theorem test_rds_cell : after (.rds 0xAA#8) runState (fun t => t.output) = some [0x0051#16] := by decide

/-- V14 line 3: `RDS` in `LOAD`. -/
theorem test_rds_in_load : after (.rds 0x00#8) State.reset (fun t => t.output) = some [0x0200#16] := by decide

/-- V14 line 7: `FAILED` with `PF` set reads as 0x06. -/
theorem test_rdr_status : after .rdrStatus { failedState with PF := true } (fun t => t.output) = some [0x0006#16] := by
  decide

/-- 44_observation.md R205, example: `I = 9`, `J = 0x99`. -/
theorem test_rdr_I : after .rdrI { runState with I := 9#8, J := 0x99#8 } (fun t => t.output) = some [0x0009#16] := by
  decide
theorem test_rdr_J : after .rdrJ { runState with I := 9#8, J := 0x99#8 } (fun t => t.output) = some [0x0099#16] := by
  decide

/-- V8: `KLEN = 256` reads as `KLENL = 0x00`, `KLENH = 0x01`. -/
theorem test_rdr_klenl_full : after .rdrKlenl fullState (fun t => t.output) = some [0x0000#16] := by decide
theorem test_rdr_klenh_full : after .rdrKlenh fullState (fun t => t.output) = some [0x0001#16] := by decide

/-! ### Steps -/

/-- V14 line 12: an illegal word in `FAILED`. -/
theorem test_step_illegal :
    afterStep (failedState.withFetchWord 16 0x0705) id =
      some { failedState with PF := true, output := [0x0300#16] } := by decide

/-- V14 line 8: `KSA` in `FAILED` is `WrongPhase`. -/
theorem test_step_ksa_in_failed :
    afterStep (failedState.withFetchWord 16 0x0300) id =
      some { failedState with PF := true, output := [0x0200#16] } := by decide

/-- V11 line 2: the first command after reset. -/
theorem test_step_keyb_after_reset :
    afterStep (State.reset.withFetchWord 16 0x0241) (fun t => (t.K, t.KLEN.val, t.input, t.output)) =
      some ([(0, 0x41#8)], 1, [], [0x0000#16]) := by decide

/-- 70_reset_and_hazards.md R261: the response of a command that a reset interrupts is lost. -/
theorem test_step_reset_during :
    afterStep (withEvent (.resetDuring 0x0400#16) runState) id = some State.reset := by decide

/-! ### Witnesses: for each statement with hypotheses, a state and operands that meet them together -/

theorem identityState_holds : HoldsFunction identityState.S id := holdsFunction_identityMemory

theorem identityState_permutation : HoldsPermutation identityState.S := holdsPermutation_identityMemory

theorem loadState_holdsKey : HoldsKey (loadState [0x4B#8] (by decide)) [0x4B#8] := by
  refine ⟨rfl, fun n hn => ?_⟩
  obtain rfl : n = 0 := by simpa using hn
  rfl

theorem witness_ResetEventIsTotal : (withEvent .reset runState).input = .reset :: [] := by rfl

theorem witness_ResetDuringACommandLosesItsResponse :
    (withEvent (.resetDuring 0x0300#16) runState).input = .resetDuring 0x0300#16 :: [] := by rfl

theorem witness_IdleInstanceKeepsItsState : runState.input = [] := by rfl

theorem witness_StepRunsTheDecodedCommand :
    (withEvent (.command 0x0550#16) runState).input = .command 0x0550#16 :: [] ∧
      decode 0x0550#16 = .ok (.xorb 0x50#8) ∧ decodeTableWord 16 0x0704 = some .rdrKlenh := by
  exact ⟨rfl, rfl, rfl⟩

/-- One word for each clause of the hypothesis, next to the limit of its range. -/
theorem witness_IllegalWordRaisesIllegalCommand :
    8 ≤ (0x08#8 : Byte).toNat ∧ (withEvent (.command 0x0800#16) runState).input = .command (0x08#8 ++ 0x00#8) :: [] ∧
      (withEvent (.command 0x00FF#16) runState).input = .command (0x00#8 ++ 0xFF#8) :: [] ∧
      (0x01#8 : Byte) ≠ 0x00#8 ∧ (withEvent (.command 0x0301#16) runState).input = .command (0x03#8 ++ 0x01#8) :: [] ∧
      5 ≤ (0x05#8 : Byte).toNat ∧
      (withEvent (.command 0x0705#16) runState).input = .command (0x07#8 ++ 0x05#8) :: [] := by
  refine ⟨?_, rfl, rfl, ?_, rfl, ?_, rfl⟩ <;> decide

theorem witness_EveryCommandWordIsAnsweredOnce :
    (withEvent (.command 0xFFFF#16) runState).input = .command 0xFFFF#16 :: [] := by rfl

theorem witness_LegalWordIsTheWordOfItsCommand : decode 0x06FF#16 = .ok (.rds 0xFF#8) := by rfl

theorem witness_ClrStartsANewCall : (0x01#8 : Byte) ≠ 0x00#8 := by decide

theorem witness_KeybAppendsTheKeyByte :
    (loadState [0x4B#8] (by decide)).PHASE = .load ∧ (loadState [0x4B#8] (by decide)).KLEN.val < 256 ∧
      fullState.PHASE = .load ∧ fullState.KLEN.val = 256 ∧ failedState.PHASE ≠ .load := by decide

/-- The last byte there is room for. -/
theorem witness_KeybAppendsTheKeyByte_last :
    ({ State.reset with KLEN := 255 } : State).PHASE = .load ∧
      ({ State.reset with KLEN := 255 } : State).KLEN.val < 256 := by decide

theorem witness_KsaSchedulesTheLoadedKey :
    (loadState [0x4B#8] (by decide)).PHASE = .load ∧ ([0x4B#8] : List Byte) ≠ [] ∧
      HoldsKey (loadState [0x4B#8] (by decide)) [0x4B#8] ∧ State.reset.PHASE = .load ∧ State.reset.KLEN.val = 0 ∧
      runState.PHASE ≠ .load :=
  ⟨rfl, by decide, loadState_holdsKey, rfl, rfl, by decide⟩

theorem witness_KsaFrameAndIndependenceOfOldS :
    (loadState [0x4B#8] (by decide)).PHASE = .load ∧ (loadState [0x4B#8] (by decide)).KLEN.val ≠ 0 := by decide

theorem witness_KsaLeavesAPermutation :
    (loadState [0x00#8] (by decide)).PHASE = .load ∧ (loadState [0x00#8] (by decide)).KLEN.val ≠ 0 := by decide

theorem witness_LongKeysScheduleAsTheirPrefix : 256 < (List.replicate 257 (0x4B#8 : Byte)).length := by
  rw [List.length_replicate]
  decide

theorem witness_NextIsOneGeneratorStep :
    identityState.PHASE = .run ∧ HoldsFunction identityState.S id ∧ failedState.PHASE ≠ .run :=
  ⟨rfl, identityState_holds, by decide⟩

theorem witness_XorbXorsTheMessageByte :
    identityState.PHASE = .run ∧ HoldsFunction identityState.S id ∧ State.reset.PHASE ≠ .run :=
  ⟨rfl, identityState_holds, by decide⟩

theorem witness_GeneratorStepFrame : runState.PHASE = .run ∧ (Instr.next = .next ∨ ∃ m, Instr.next = .xorb m) :=
  ⟨rfl, .inl rfl⟩

theorem witness_GeneratorStepKeepsThePermutation :
    identityState.PHASE = .run ∧ (Instr.xorb 0x50#8 = .next ∨ ∃ m, Instr.xorb 0x50#8 = .xorb m) ∧
      HoldsPermutation identityState.S :=
  ⟨rfl, .inr ⟨_, rfl⟩, identityState_permutation⟩

theorem witness_XorbAndNextDifferOnlyInTheByte : runState.PHASE = .run := by rfl

theorem witness_CursorICountsGeneratorSteps :
    runState.PHASE = .run ∧ ∀ i ∈ [Instr.next, Instr.xorb 0x50#8], i = .next ∨ ∃ m, i = .xorb m := by
  refine ⟨rfl, fun i hi => ?_⟩
  rcases List.mem_cons.1 hi with rfl | hi
  · exact .inl rfl
  · exact .inr ⟨0x50#8, List.mem_singleton.1 hi⟩

theorem witness_RdsReadsOneCell :
    runState.PHASE = .run ∧ runState.S.read (0xAA#8 : Byte).toNat = some 0x51#8 ∧ failedState.PHASE ≠ .run := by decide

theorem witness_RdrReadsTheRegisters :
    5 ≤ (0x05#8 : Byte).toNat ∧
      (withEvent (.command 0x0705#16) runState).input = .command (0x07#8 ++ 0x05#8) :: [] := by
  exact ⟨by decide, rfl⟩

theorem reset_machineInv : MachineInv { State.reset with KLEN := 0 } where
  canonicalS := Memory.wf_nil
  canonicalK := Memory.wf_nil
  permutation := fun h => by cases h
  noPermutation := fun _ => rfl
  cursors := fun _ => ⟨rfl, rfl⟩
  keyCells := fun n => by simp [State.reset]
  runKey := fun h => by cases h
  failedKey := fun h => by cases h

/-- A state of phase `RUN` that meets the invariant. -/
theorem identityState_machineInv : MachineInv identityState where
  canonicalS := wf_identityMemory
  canonicalK := by decide
  permutation := fun _ => identityState_permutation
  noPermutation := fun h => absurd rfl h
  cursors := fun h => absurd rfl h
  keyCells := fun n => by
    show (Memory.read [(0, 0x4B#8)] n).isSome = true ↔ n < 1
    simp only [Memory.read_cons, Memory.read_nil]
    split_ifs with h
    · simp [← h]
    · simp only [Option.isSome_none, Bool.false_eq_true, false_iff]
      omega
  runKey := fun _ => by decide
  failedKey := fun h => by cases h

theorem witness_RdrValuesAreInTheirRanges :
    (∃ s : State, MachineInv s ∧ s.PHASE ≠ .run) ∧ (0x01#8 : Byte) = 0x01#8 :=
  ⟨⟨_, reset_machineInv, by decide⟩, rfl⟩

theorem witness_ObservationDisturbsNothing : runState.PHASE = .run ∧ ∃ a, Instr.rds 0xAA#8 = .rds a := ⟨rfl, _, rfl⟩

theorem witness_InvalidKeyInFull :
    State.reset.PHASE = .load ∧ State.reset.KLEN.val = 0 ∧
      exec .ksa State.reset = .next { State.reset with PHASE := .failed, output := [0x0100#16] } ∧
      ({ State.reset with PHASE := .failed, output := [0x0100#16] } : State).output =
        State.reset.output ++ [0x0100#16] ∧ failedState.PHASE = .failed := by
  exact ⟨rfl, rfl, rfl, rfl, rfl⟩

theorem witness_OutOfPhaseCommandsAreRefused :
    admitted (.keyb 0x41#8) runState.PHASE = false ∧ admitted .next runState.PHASE = true := by decide

theorem witness_FaultPriority :
    (0x01#8 : Byte) ≠ 0x00#8 ∧ (withEvent (.command 0x0301#16) State.reset).input = .command (0x03#8 ++ 0x01#8) :: [] ∧
      (withEvent (.command 0x0300#16) failedState).PHASE = .failed ∧
      (withEvent (.command 0x0300#16) failedState).input = .command 0x0300#16 :: [] ∧
      (withEvent (.command 0x0300#16) runState).PHASE = .run := by
  exact ⟨by decide, rfl, rfl, rfl, rfl⟩

theorem witness_FailedIsLeftOnlyByClrOrReset :
    step (withEvent (.command 0x0100#16) failedState) = .next { State.reset with output := [0x0000#16] } ∧
      (withEvent (.command 0x0100#16) failedState).PHASE = .failed ∧
      ({ State.reset with output := [0x0000#16] } : State).PHASE ≠ .failed := by
  exact ⟨rfl, rfl, by decide⟩

/-- Entering `FAILED` and entering `LOAD`. -/
theorem witness_PhasesAreEnteredOnlyAsStated :
    step (withEvent (.command 0x0300#16) State.reset) =
        .next { State.reset with PHASE := .failed, output := [0x0100#16] } ∧
      (withEvent (.command 0x0300#16) State.reset).PHASE ≠ .failed ∧
      step (withEvent .reset runState) = .next State.reset ∧ (withEvent .reset runState).PHASE ≠ .load := by
  exact ⟨rfl, by decide, rfl, by decide⟩

/-- Entering `RUN`. -/
theorem witness_PhasesAreEnteredOnlyAsStated_run :
    step (withEvent (.command 0x0300#16) (loadState [0x4B#8] (by decide))) =
        .next (respond 0x00#8 (runSchedule (loadState [0x4B#8] (by decide)))) ∧
      (respond 0x00#8 (runSchedule (loadState [0x4B#8] (by decide)))).PHASE = .run := by
  exact ⟨rfl, rfl⟩

/-- `PF` rising and `PF` falling. -/
theorem witness_PfIsSticky :
    step (withEvent (.command 0x0000#16) State.reset) = .next { State.reset with PF := true, output := [0x0300#16] } ∧
      step (withEvent (.command 0x0400#16) State.reset) = .next { State.reset with PF := true, output := [0x0200#16] } ∧
      step (withEvent .reset { failedState with PF := true }) = .next State.reset := by
  exact ⟨rfl, rfl, rfl⟩

theorem witness_NoCommandDependsOnPf : Instr.next ≠ .rdrStatus := by decide

theorem witness_OnlyKeybAndClrWriteTheKey :
    exec (.keyb 0x41#8) State.reset =
        .next { State.reset with K := [(0, 0x41#8)], KLEN := 1, output := [0x0000#16] } ∧
      ({ State.reset with K := [(0, 0x41#8)], KLEN := 1, output := [0x0000#16] } : State).K ≠ State.reset.K := by
  exact ⟨rfl, by decide⟩

theorem witness_ResponsesDoNotShowTheKeyBuffer : Instr.clr ≠ .ksa := by decide

theorem witness_EveryStepKeepsTheInvariant :
    MachineInv identityState ∧ step identityState = .next identityState := ⟨identityState_machineInv, rfl⟩

theorem witness_EveryStepKeepsMemoriesCanonical :
    runState.S.wf ∧ runState.K.wf ∧ step (withEvent .reset runState) = .next State.reset := by
  exact ⟨by decide, by decide, rfl⟩

theorem witness_TransformCallIsAnInvolution : ([0x4B#8] : List Byte) ≠ [] := by decide

theorem witness_OutputIsAsLongAsTheMessage : ([0x41#8] : List Byte) ≠ [] := by decide

theorem witness_InstancesShareNothing :
    stepInstance 1 [State.reset, withEvent .reset runState] = some [State.reset, State.reset] ∧ (0 : Nat) ≠ 1 := by
  exact ⟨rfl, by decide⟩

end Sys2Proof.Tests
end

section
/-! SUPPORT. Proofs for 10_state.md, invariants: one case analysis of a step for every predicate on the seven
components of the state, then the canonical form of the memories and the machine's invariant as two uses of it. -/

namespace Sys2Proof.Machine

/-- A predicate that reads neither `PF` nor the two ports, holds at reset, and is kept by each operation that writes
another component. Every step keeps such a predicate (`KeptByOps.step`). -/
structure KeptByOps (P : State → Prop) : Prop where
  reset : P State.reset
  ports : ∀ (s : State) (pf : Bool) (es : List HostEvent) (ws : List RspWord),
    P s → P { s with PF := pf, input := es, output := ws }
  keyb : ∀ (s : State) (b : Byte), s.PHASE = .load → P s → P (appendKeyByte b s)
  invalidKey : ∀ s : State, s.PHASE = .load → s.KLEN.val = 0 → P s → P (s.setPHASE .failed)
  schedule : ∀ s : State, s.PHASE = .load → s.KLEN.val ≠ 0 → P s → P (runSchedule s)
  generator : ∀ s : State, s.PHASE = .run → P s → P (generatorStep s)

namespace KeptByOps

variable {P : State → Prop}

theorem respond (h : KeptByOps P) (d : Byte) {s : State} (hs : P s) : P (respond d s) :=
  h.ports s s.PF s.input _ hs

theorem setInput (h : KeptByOps P) (es : List HostEvent) {s : State} (hs : P s) : P (s.setInput es) :=
  h.ports s s.PF es s.output hs

/-- The two interface faults write `PF` alone (60_exceptions.md R222, R223). -/
theorem interfaceFault (h : KeptByOps P) {c : FaultCause} (hc : c ≠ .invalidKey) {s : State} (hs : P s) :
    P (raiseFault c s) := by
  cases c with
  | invalidKey => exact absurd rfl hc
  | wrongPhase => exact h.ports s true s.input _ hs
  | illegalCommand => exact h.ports s true s.input _ hs

theorem startAfresh (h : KeptByOps P) (s : State) : P (startAfresh s) :=
  h.ports State.reset false s.input s.output h.reset

/-- Every command keeps such a predicate. -/
theorem exec (h : KeptByOps P) {i : Instr} {s t : State} (he : exec i s = .next t) (hs : P s) : P t := by
  rcases exec_cases he with he | rfl
  · cases he with
    | clr => exact h.respond _ (h.startAfresh s)
    | keyb b hp => exact h.respond _ (h.keyb s b hp hs)
    | ksaEmpty hp hk =>
      exact h.ports (s.setPHASE .failed) s.PF s.input _ (h.invalidKey s hp hk hs)
    | ksa hp hk => exact h.respond _ (h.schedule s hp hk hs)
    | next hp => exact h.respond _ (h.generator s hp hs)
    | xorb m hp => exact h.respond _ (h.generator s hp hs)
    | rds _ _ | rdrStatus | rdrI | rdrJ | rdrKlenl | rdrKlenh => exact h.respond _ hs
  · exact h.interfaceFault (by decide) hs

/-- Every step keeps such a predicate: resets and illegal words included. -/
theorem step (h : KeptByOps P) {s t : State} (hst : step s = .next t) (hs : P s) : P t := by
  cases step_cases hst with
  | idle _ => exact hs
  | command _ _ he => exact h.exec he (h.setInput _ hs)
  | illegal _ _ => exact h.interfaceFault (by decide) (h.setInput _ hs)
  | reset _ | resetDuring _ => exact h.startAfresh _

end KeptByOps

/-! ### The canonical form of both memories -/

/-- Both memories are in canonical form (log entry 4). -/
def Canonical (s : State) : Prop := s.S.wf ∧ s.K.wf

theorem Canonical.appendKeyByte {s : State} (h : Canonical s) (b : Byte) : Canonical (appendKeyByte b s) := by
  by_cases hk : s.KLEN.val < Config.KBUF
  · rw [appendKeyByte_of_lt b hk]
    exact ⟨h.1, Memory.wf_write h.2 hk b⟩
  · rwa [appendKeyByte_of_ge b hk]

theorem canonical_keptByOps : KeptByOps Canonical where
  reset := ⟨Memory.wf_nil, Memory.wf_nil⟩
  ports _ _ _ _ h := h
  keyb _ b _ h := h.appendKeyByte b
  invalidKey _ _ _ h := h
  schedule s _ _ h := ⟨wf_scheduledMemory s.K s.KLEN.val, h.2⟩
  generator _ _ h := ⟨wf_swapCells h.1 _ _, h.2⟩

/-- Settles O44: no operation writes a cell outside 0..255, and every write keeps the rising order. -/
theorem everyStepKeepsMemoriesCanonical : Obligations.EveryStepKeepsMemoriesCanonical :=
  fun _ _ hS hK hst => canonical_keptByOps.step hst ⟨hS, hK⟩

/-! ### The machine's invariant -/

/-- The 256 rounds are swaps from the identity: what holds of the identity and survives a swap holds of the
scheduled memory, whatever the key. -/
theorem scheduledMemory_induction {P : Memory → Prop} (hid : P identityMemory)
    (hswap : ∀ m a b, P m → P (swapCells m a b)) (K : Memory) (klen : Nat) : P (scheduledMemory K klen) := by
  have rounds : ∀ (rs : List Nat) (p : Memory × Byte), P p.1 → P (rs.foldl (scheduleRound K klen) p).1 := by
    intro rs
    induction rs with
    | nil => exact fun _ hp => hp
    | cons r rs ih => exact fun _ hp => ih _ (hswap _ _ _ hp)
  unfold scheduledMemory
  exact rounds _ _ hid

/-- The key schedule leaves a permutation in S, whatever K holds (41_key_scheduler.md R135). -/
theorem holdsPermutation_scheduledMemory (K : Memory) (klen : Nat) : HoldsPermutation (scheduledMemory K klen) :=
  scheduledMemory_induction holdsPermutation_identityMemory (fun _ a b h => h.swapCells a b) K klen

/-- Settles O42: at reset both memories list no cell and every register holds 0. -/
theorem invariantHoldsAtReset : Obligations.InvariantHoldsAtReset where
  canonicalS := Memory.wf_nil
  canonicalK := Memory.wf_nil
  permutation h := nomatch h
  noPermutation _ := rfl
  cursors _ := ⟨rfl, rfl⟩
  keyCells n := by simp [State.reset]
  runKey h := nomatch h
  failedKey _ := rfl

/-- Invariant K after one more key byte: the cell at the old `KLEN` is the one that gains a value. -/
theorem MachineInv.appendKeyByte {s : State} (h : MachineInv s) (b : Byte) (hp : s.PHASE = .load) :
    MachineInv (appendKeyByte b s) := by
  by_cases hk : s.KLEN.val < Config.KBUF
  · rw [appendKeyByte_of_lt b hk]
    refine { h with canonicalK := Memory.wf_write h.canonicalK hk b, keyCells := fun n => ?_, runKey := ?_,
                    failedKey := ?_ }
    · show ((s.K.write s.KLEN.val b).read n).isSome = true ↔ n < s.KLEN.val + 1
      rw [Memory.read_write]
      split_ifs with hn
      · simp [hn]
      · rw [h.keyCells n]
        omega
    · exact fun hr => nomatch hp.symm.trans hr
    · exact fun hf => nomatch hp.symm.trans hf
  · rwa [appendKeyByte_of_ge b hk]

/-- A `KSA` that finds an empty key leaves the invariant: only Invariant F asks anything new of `FAILED`. -/
theorem MachineInv.setPHASE_failed {s : State} (h : MachineInv s) (hp : s.PHASE = .load) (hk : s.KLEN.val = 0) :
    MachineInv (s.setPHASE .failed) :=
  have hr : s.PHASE ≠ .run := by simp [hp]
  { h with
    permutation := nofun
    noPermutation := fun _ => h.noPermutation hr
    cursors := fun _ => h.cursors hr
    runKey := nofun
    failedKey := fun _ => hk }

theorem MachineInv.runSchedule {s : State} (h : MachineInv s) (hk : s.KLEN.val ≠ 0) : MachineInv (runSchedule s) :=
  { h with
    canonicalS := wf_scheduledMemory s.K s.KLEN.val
    permutation := fun _ => holdsPermutation_scheduledMemory s.K s.KLEN.val
    noPermutation := fun hr => absurd rfl hr
    cursors := fun hr => absurd rfl hr
    runKey := fun _ => Nat.one_le_iff_ne_zero.2 hk
    failedKey := nofun }

/-- In `RUN` a generator step is a swap of S and a move of the cursors. -/
theorem MachineInv.generatorStep {s : State} (h : MachineInv s) (hp : s.PHASE = .run) :
    MachineInv (generatorStep s) :=
  { h with
    canonicalS := wf_swapCells h.canonicalS _ _
    permutation := fun _ => (h.permutation hp).swapCells _ _
    noPermutation := fun hr => absurd hp hr
    cursors := fun hr => absurd hp hr }

theorem machineInv_keptByOps : KeptByOps MachineInv where
  reset := invariantHoldsAtReset
  ports _ _ _ _ h := { h with }
  keyb _ b hp h := h.appendKeyByte b hp
  invalidKey _ hp hk h := h.setPHASE_failed hp hk
  schedule _ _ hk h := h.runSchedule hk
  generator _ hp h := h.generatorStep hp

/-- Settles O43: the invariant holds at reset and every operation of the machine keeps it. -/
theorem everyStepKeepsTheInvariant : Obligations.EveryStepKeepsTheInvariant :=
  fun _ _ hs hst => machineInv_keptByOps.step hst hs

end Sys2Proof.Machine
end

section
/-! SUPPORT. The decoder and the encoder are inverse to each other (30_encoding.md R84, R86). -/

namespace Sys2Proof.Laws

/-- Format Z admits the operand 0x00 alone (30_encoding.md R88). -/
theorem decodeNoOperand_eq_ok {arg : Byte} {i j : Instr} :
    decodeNoOperand arg i = .ok j ↔ arg = 0x00#8 ∧ i = j := by
  unfold decodeNoOperand
  split_ifs with h <;> simp [h]

/-- A register number that decodes is the operand of the command's word (30_encoding.md R90). -/
theorem encode_of_decodeRegister {arg : Byte} {i : Instr} (h : decodeRegister arg = .ok i) :
    encode i = wordOf 0x07#8 arg := by
  unfold decodeRegister at h
  split_ifs at h <;> cases h <;> simp only [encode, *]

/-- The word of a command decodes to the command (30_encoding.md R86). -/
@[simp] theorem decode_encode (i : Instr) : decode (encode i) = .ok i := by
  cases i with
  | clr | ksa | next | rdrStatus | rdrI | rdrJ | rdrKlenl | rdrKlenh => rfl
  | keyb _ | xorb _ | rds _ => simp [encode, decode]

/-- A word that decodes to a command is the word of that command: there is no other (30_encoding.md R84). -/
theorem encode_of_decode {w : CmdWord} {i : Instr} (h : decode w = .ok i) : encode i = w := by
  have noOperand : ∀ {op : Byte} {j : Instr}, encode j = wordOf op 0x00#8 → opOf w = op →
      decodeNoOperand (argOf w) j = .ok i → encode i = w := by
    intro op j hj hop hd
    obtain ⟨harg, rfl⟩ := decodeNoOperand_eq_ok.1 hd
    rw [hj, ← hop, ← harg, wordOf_fields]
  unfold decode at h
  split_ifs at h with h1 h2 h3 h4 h5 h6 h7
  · exact noOperand rfl h1 h
  · cases h
    rw [encode, ← h2, wordOf_fields]
  · exact noOperand rfl h3 h
  · exact noOperand rfl h4 h
  · cases h
    rw [encode, ← h5, wordOf_fields]
  · cases h
    rw [encode, ← h6, wordOf_fields]
  · rw [encode_of_decodeRegister h, ← h7, wordOf_fields]

end Sys2Proof.Laws
end

section
/-! SUPPORT. Proofs for 10_state.md, commands: what an admitted command can do to each component of the state, then
the statements about the phase, the fault flag and the key buffer. -/

namespace Sys2Proof.Machine

/-- Settles O1: the reset state is written out with these values. -/
theorem resetLeavesTheStatedValues : Obligations.ResetLeavesTheStatedValues :=
  ⟨rfl, rfl, rfl, rfl, rfl, rfl, fun _ => ⟨rfl, rfl⟩⟩

/-! ### An admitted command, component by component -/

namespace Effect

variable {s t : State} {i : Instr}

/-- The command port is the host's: no command touches it. -/
theorem input_eq (h : Effect s i t) : t.input = s.input := by
  cases h with
  | keyb b _ => obtain ⟨-, -, -, -, -, hin, -⟩ := appendKeyByte_frame b s; exact hin
  | _ => rfl

/-- K and `KLEN` are written by `CLR` and `KEYB` alone (10_state.md R37). -/
theorem key_eq (h : Effect s i t) : (t.K = s.K ∧ t.KLEN = s.KLEN) ∨ i = .clr ∨ ∃ b, i = .keyb b := by
  cases h with
  | clr => exact .inr (.inl rfl)
  | keyb b _ => exact .inr (.inr ⟨b, rfl⟩)
  | _ => exact .inl ⟨rfl, rfl⟩

/-- No admitted command but `CLR` writes `PF` (10_state.md R29). -/
theorem pf_eq (h : Effect s i t) : t.PF = s.PF ∨ i = .clr := by
  cases h with
  | clr => exact .inr rfl
  | keyb b _ => obtain ⟨-, -, -, -, hpf, -, -⟩ := appendKeyByte_frame b s; exact .inl hpf
  | _ => exact .inl rfl

/-- An admitted command answers `OK`, or it is `KSA` and answers `InvalidKey` (60_exceptions.md R222). -/
theorem answer (h : Effect s i t) : ∃ w, t.output = s.output ++ [w] ∧ (codeOf w = 0x00#8 ∨ w = 0x0100#16) := by
  have ok : ∀ (d : Byte) (u : State), u.output = s.output →
      ∃ w, (respond d u).output = s.output ++ [w] ∧ (codeOf w = 0x00#8 ∨ w = 0x0100#16) := by
    intro d u hu
    exact ⟨responseWord 0x00#8 d, by simp [respond, hu], .inl (codeOf_responseWord _ _)⟩
  cases h with
  | keyb b _ => obtain ⟨-, -, -, -, -, -, hout⟩ := appendKeyByte_frame b s; exact ok _ _ hout
  | ksaEmpty _ _ => exact ⟨_, rfl, .inr rfl⟩
  | _ => exact ok _ _ rfl

/-- The phase after an admitted command: `CLR` and `KSA` alone can change it (10_state.md R28). -/
theorem phase_cases (h : Effect s i t) :
    t.PHASE = s.PHASE ∨ (i = .clr ∧ t.PHASE = .load) ∨
      (i = .ksa ∧ s.PHASE = .load ∧ s.KLEN.val = 0 ∧ t.PHASE = .failed ∧ t.output = s.output ++ [0x0100#16]) ∨
      (i = .ksa ∧ s.PHASE = .load ∧ s.KLEN.val ≠ 0 ∧ t.PHASE = .run ∧ t.output = s.output ++ [0x0000#16]) := by
  cases h with
  | clr => exact .inr (.inl ⟨rfl, rfl⟩)
  | keyb b _ => obtain ⟨-, -, -, hph, -, -, -⟩ := appendKeyByte_frame b s; exact .inl hph
  | ksaEmpty hp hk => exact .inr (.inr (.inl ⟨rfl, hp, hk, rfl, rfl⟩))
  | ksa hp hk => exact .inr (.inr (.inr ⟨rfl, hp, hk, rfl, rfl⟩))
  | _ => exact .inl rfl

end Effect

/-- Settles O40: an admitted command by `Effect.input_eq` and `Effect.key_eq`; a refused one writes `PF` alone. -/
theorem onlyKeybAndClrWriteTheKey : Obligations.OnlyKeybAndClrWriteTheKey := by
  intro s i t he
  rcases exec_cases he with he | rfl
  · refine ⟨he.input_eq, fun hne => ?_⟩
    rcases he.key_eq with ⟨hK, hL⟩ | hi
    · exact absurd hne (by simp [hK, hL])
    · exact hi
  · exact ⟨rfl, fun hne => by simp [raiseFault_wrongPhase] at hne⟩

/-! ### The phase -/

/-- Settles O37: among the steps only `CLR`, `KSA` and a reset can change `PHASE`, and the words of those two
commands are their only words. -/
theorem phasesAreEnteredOnlyAsStated : Obligations.PhasesAreEnteredOnlyAsStated := by
  intro s t hst hne
  cases step_cases hst with
  | idle _ => exact absurd rfl hne
  | command hin hd he =>
    have hw := Laws.encode_of_decode hd
    rcases exec_cases he with he | rfl
    · rcases he.phase_cases with hp | ⟨rfl, hp⟩ | ⟨rfl, hl, hk, hp, ho⟩ | ⟨rfl, hl, hk, hp, ho⟩
      · exact absurd hp.symm hne
      · exact ⟨by simp [hp], by simp [hp], fun _ => .inl ⟨_, hw ▸ hin⟩⟩
      · exact ⟨by simp [hp], fun _ => ⟨hl, hk, ho, _, hw ▸ hin⟩, by simp [hp]⟩
      · exact ⟨fun _ => ⟨hl, hk, ho, _, hw ▸ hin⟩, by simp [hp], by simp [hp]⟩
    · exact absurd rfl hne
  | illegal _ _ => exact absurd rfl hne
  | reset hin => exact ⟨nofun, nofun, fun _ => .inr (.inl ⟨_, hin⟩)⟩
  | resetDuring hin => exact ⟨nofun, nofun, fun _ => .inr (.inr ⟨_, _, hin⟩)⟩

/-! ### The fault flag -/

/-- The host's next event starts a new call: the word of `CLR`, a reset, or a reset during a command. -/
def StartsNewCall (s : State) : Prop :=
  (∃ rest, s.input = .command 0x0100#16 :: rest) ∨ (∃ rest, s.input = .reset :: rest) ∨
    ∃ w rest, s.input = .resetDuring w :: rest

/-- What a step can do to `PF`: a new call clears it, an interface fault sets it, and any other step keeps it and
answers neither fault (10_state.md R29). -/
theorem step_pf_cases {s t : State} (h : step s = .next t) :
    (t.PF = false ∧ StartsNewCall s ∧ (t.output = s.output ∨ t.output = s.output ++ [0x0000#16])) ∨
    (t.PF = true ∧ ∃ w ∈ [0x0200#16, 0x0300#16], t.output = s.output ++ [w]) ∨
    (t.PF = s.PF ∧ t.output ≠ s.output ++ [0x0200#16] ∧ t.output ≠ s.output ++ [0x0300#16]) := by
  cases step_cases h with
  | idle _ => exact .inr (.inr ⟨rfl, by simp, by simp⟩)
  | command hin hd he =>
    have hw := Laws.encode_of_decode hd
    rcases exec_cases he with he | rfl
    · rcases he.pf_eq with hpf | rfl
      · obtain ⟨w, ho, hc⟩ := he.answer
        have other : ∀ f : RspWord, codeOf f ≠ 0x00#8 → f ≠ 0x0100#16 → t.output ≠ s.output ++ [f] := by
          rintro f hf hf' ht
          obtain rfl : w = f := by simpa using ho.symm.trans ht
          exact hc.elim hf hf'
        exact .inr (.inr ⟨hpf, other _ (by decide) (by decide), other _ (by decide) (by decide)⟩)
      · cases he
        exact .inl ⟨rfl, .inl ⟨_, hw ▸ hin⟩, .inr rfl⟩
    · exact .inr (.inl ⟨rfl, 0x0200#16, by simp, rfl⟩)
  | illegal _ _ => exact .inr (.inl ⟨rfl, 0x0300#16, by simp, rfl⟩)
  | reset hin => exact .inl ⟨rfl, .inr (.inl ⟨_, hin⟩), .inl rfl⟩
  | resetDuring hin => exact .inl ⟨rfl, .inr (.inr ⟨_, _, hin⟩), .inl rfl⟩

/-- Settles O38: the three ways a step can treat `PF`, each read against its response. -/
theorem pfIsSticky : Obligations.PfIsSticky := by
  refine ⟨fun s t h hs ht => ?_, fun s t h ho => ?_, fun s t h hs ht => ?_⟩
  · rcases step_pf_cases h with ⟨hf, -, -⟩ | ⟨-, hw⟩ | ⟨hk, -, -⟩
    · simp [hf] at ht
    · exact hw
    · simp [hk, hs] at ht
  · rcases step_pf_cases h with ⟨-, -, ho'⟩ | ⟨hf, -⟩ | ⟨-, h2, h3⟩
    · rcases ho' with ho' | ho' <;> simp [ho'] at ho
    · exact hf
    · exact absurd ho (not_or.2 ⟨h2, h3⟩)
  · rcases step_pf_cases h with ⟨-, he, -⟩ | ⟨hf, -⟩ | ⟨hk, -, -⟩
    · exact he
    · simp [hf] at ht
    · simp [hk, hs] at ht

/-! ### What a command does not depend on -/

/-- Two states of one phase meet the same admission: what relates the two runs and the two refusals relates the two
outcomes. -/
theorem whenPhase_related {R : State → State → Prop} {p : Phase} {f : State → State} {s s' : State}
    (hp : s'.PHASE = s.PHASE) (hrun : R (f s) (f s'))
    (hfault : R (raiseFault .wrongPhase s) (raiseFault .wrongPhase s')) :
    ∃ t u, whenPhase p (fun s => .next (f s)) s = .next t ∧ whenPhase p (fun s => .next (f s)) s' = .next u ∧
      R t u := by
  by_cases h : s.PHASE = p
  · exact ⟨_, _, whenPhase_same h, whenPhase_same (hp.trans h), hrun⟩
  · exact ⟨_, _, whenPhase_other h, whenPhase_other (hp ▸ h), hfault⟩

/-- `KSA` tests `KLEN`, so what relates two states of one `KLEN` after each of its three ends relates its outcomes. -/
theorem execKsa_related {R : State → State → Prop} {s s' : State} (hp : s'.PHASE = s.PHASE) (hk : s'.KLEN = s.KLEN)
    (hempty : R (raiseFault .invalidKey s) (raiseFault .invalidKey s'))
    (hsched : R (respond 0x00#8 (runSchedule s)) (respond 0x00#8 (runSchedule s')))
    (hfault : R (raiseFault .wrongPhase s) (raiseFault .wrongPhase s')) :
    ∃ t u, execKsa s = .next t ∧ execKsa s' = .next u ∧ R t u := by
  have one : execKsa = whenPhase .load fun s =>
      .next (if s.KLEN.val = 0 then raiseFault .invalidKey s else respond 0x00#8 (runSchedule s)) := by
    funext s
    simp only [execKsa, apply_ite Host.Outcome.next]
  rw [one]
  refine whenPhase_related hp ?_ hfault
  rw [hk]
  split_ifs
  · exact hempty
  · exact hsched

/-- Equal but for `PF`. -/
def AgreeButPF (t u : State) : Prop := t = { u with PF := t.PF }

/-- Equal but for K. -/
def AgreeButK (t u : State) : Prop := t = { u with K := t.K }

/-- Appending a key byte reads no `PF`. -/
theorem appendKeyByte_agreeButPF (b : Byte) (s : State) (pf : Bool) :
    AgreeButPF (appendKeyByte b s) (appendKeyByte b (s.setPF pf)) := by
  by_cases h : s.KLEN.val < Config.KBUF
  · rw [appendKeyByte_of_lt b h, appendKeyByte_of_lt b (s := s.setPF pf) h]
    rfl
  · rw [appendKeyByte_of_ge b h, appendKeyByte_of_ge b (s := s.setPF pf) h]
    rfl

/-- Appending a key byte adds to K whatever K holds, and reads none of it. -/
theorem appendKeyByte_agreeButK (b : Byte) (s : State) (m : Memory) :
    AgreeButK (appendKeyByte b s) (appendKeyByte b (s.setK m)) := by
  by_cases h : s.KLEN.val < Config.KBUF
  · rw [appendKeyByte_of_lt b h, appendKeyByte_of_lt b (s := s.setK m) h]
    rfl
  · rw [appendKeyByte_of_ge b h, appendKeyByte_of_ge b (s := s.setK m) h]
    rfl

theorem AgreeButPF.respond {t u : State} (h : AgreeButPF t u) (d : Byte) : AgreeButPF (respond d t) (respond d u) := by
  rw [h]
  rfl

theorem AgreeButK.respond {t u : State} (h : AgreeButK t u) (d : Byte) : AgreeButK (respond d t) (respond d u) := by
  rw [h]
  rfl

theorem AgreeButK.output_eq {t u : State} (h : AgreeButK t u) : t.output = u.output := by
  rw [h]

/-- Settles O39: no operation but `statusByte` reads `PF`. -/
theorem noCommandDependsOnPf : Obligations.NoCommandDependsOnPf := by
  intro s i b hi
  show ∃ t u, exec i s = .next t ∧ exec i (s.setPF b) = .next u ∧ AgreeButPF t u
  cases i with
  | clr | rdrI | rdrJ | rdrKlenl | rdrKlenh => exact ⟨_, _, rfl, rfl, rfl⟩
  | keyb k =>
    unfold exec execKeyb
    exact whenPhase_related rfl ((appendKeyByte_agreeButPF k s b).respond _) rfl
  | ksa => exact execKsa_related rfl rfl rfl rfl rfl
  | next | xorb _ | rds _ =>
    simp only [exec, execNext, execXorb, execRds]
    exact whenPhase_related rfl rfl rfl
  | rdrStatus => exact absurd rfl hi

/-- With K replaced, every command but `KSA` answers the same and leaves the same state but for K. -/
theorem exec_agreeButK {i : Instr} (hi : i ≠ .ksa) (s : State) (m : Memory) :
    ∃ t u, exec i s = .next t ∧ exec i (s.setK m) = .next u ∧ AgreeButK t u := by
  cases i with
  | clr | rdrStatus | rdrI | rdrJ | rdrKlenl | rdrKlenh => exact ⟨_, _, rfl, rfl, rfl⟩
  | keyb b =>
    unfold exec execKeyb
    exact whenPhase_related rfl ((appendKeyByte_agreeButK b s m).respond _) rfl
  | ksa => exact absurd rfl hi
  | next | xorb _ | rds _ =>
    simp only [exec, execNext, execXorb, execRds]
    exact whenPhase_related rfl rfl rfl

/-- Settles O41: no operation but `scheduledMemory` reads K, and the answer of `KSA` is its success alone. -/
theorem responsesDoNotShowTheKeyBuffer : Obligations.ResponsesDoNotShowTheKeyBuffer := by
  intro s i m
  by_cases hi : i = .ksa
  · subst hi
    obtain ⟨t, u, ht, hu, ho⟩ : ∃ t u, execKsa s = .next t ∧ execKsa (s.setK m) = .next u ∧ t.output = u.output :=
      execKsa_related rfl rfl rfl (by simp only [respond_eq, runSchedule_eq, State.setK_output]) rfl
    exact ⟨t, u, ht, hu, ho, fun h => absurd rfl h⟩
  · obtain ⟨t, u, ht, hu, h⟩ := exec_agreeButK hi s m
    exact ⟨t, u, ht, hu, h.output_eq, fun _ => h⟩

end Sys2Proof.Machine
end

section
/-! SUPPORT. Proofs for 10_state.md, loading a key: the state after `CLR` and any number of `KEYB` holds the key
bytes given so far, and one more `KEYB` keeps that true of one more byte. -/

namespace Sys2Proof.Machine

/-- In `LOAD`, with no protocol fault, K holds the first 256 of the bytes `key` (10_state.md R26, 20_memory.md R69). -/
structure LoadedWith (s : State) (key : List Byte) : Prop where
  phase : s.PHASE = .load
  pf : s.PF = false
  klen : s.KLEN.val = min 256 key.length
  cells : ∀ n, n < 256 → s.K.read n = key[n]?

theorem loadedWith_startAfresh (s : State) : LoadedWith (startAfresh s) [] := ⟨rfl, rfl, rfl, fun _ _ => rfl⟩

/-- The answer is no part of what is loaded. -/
theorem LoadedWith.respond {s : State} {key : List Byte} (h : LoadedWith s key) (d : Byte) :
    LoadedWith (respond d s) key := { h with }

/-- One more key byte: at index `KLEN` while there is room, dropped when 256 are held (40_context_and_key.md R117). -/
theorem LoadedWith.appendKeyByte {s : State} {key : List Byte} (h : LoadedWith s key) (b : Byte) :
    LoadedWith (appendKeyByte b s) (key ++ [b]) := by
  have hklen := h.klen
  by_cases hk : s.KLEN.val < 256
  · have hlen : s.KLEN.val = key.length := by omega
    rw [appendKeyByte_of_lt b hk]
    refine { h with klen := ?_, cells := fun n hn => ?_ }
    · simp only [List.length_append, List.length_singleton]
      omega
    · show (s.K.write s.KLEN.val b).read n = (key ++ [b])[n]?
      rw [hlen]
      by_cases hnk : n = key.length
      · simp [hnk]
      · rw [Memory.read_write_other _ _ hnk, h.cells n hn, List.getElem?_append]
        split_ifs with hlt
        · rfl
        · rw [List.getElem?_eq_none (by omega), List.getElem?_eq_none (by simp; omega)]
  · rw [appendKeyByte_of_ge b hk]
    refine { h with klen := ?_, cells := fun n hn => ?_ }
    · simp only [List.length_append, List.length_singleton]
      omega
    · rw [h.cells n hn, List.getElem?_append_left (by omega)]

theorem issue_clr (s : State) : issue .clr s = some (respond 0x00#8 (startAfresh s), 0x0000#16) :=
  issue_of_exec rfl rfl rfl

theorem issue_keyb {s : State} (hp : s.PHASE = .load) (b : Byte) :
    issue (.keyb b) s = some (respond 0x00#8 (appendKeyByte b s), 0x0000#16) := by
  obtain ⟨-, -, -, -, -, -, hout⟩ := appendKeyByte_frame b s
  have he : exec (.keyb b) s = .next (respond 0x00#8 (appendKeyByte b s)) := by
    rw [exec, execKeyb, whenPhase_same hp]
  exact issue_of_exec (Laws.decode_encode _) he (by rw [respond_eq, hout]; rfl)

/-- The key bytes of a call, issued after those of `before`, are all answered 0x0000 and all loaded. -/
theorem issueAll_keyCommands (key : List Byte) {s : State} {before : List Byte} (h : LoadedWith s before) :
    ∃ t, issueAll (keyCommands key) s = some (t, List.replicate key.length 0x0000#16) ∧
      LoadedWith t (before ++ key) ∧ t.input = s.input := by
  induction key generalizing s before with
  | nil => exact ⟨s, rfl, by simpa using h, rfl⟩
  | cons b key ih =>
    obtain ⟨-, -, -, -, -, hin, -⟩ := appendKeyByte_frame b s
    obtain ⟨t, hrest, ht, htin⟩ := ih ((h.appendKeyByte b).respond 0x00#8)
    refine ⟨t, ?_, by simpa using ht, htin.trans hin⟩
    show issueAll (.keyb b :: keyCommands key) s = _
    rw [issueAll_cons (issue_keyb h.phase b), hrest]
    rfl

/-- Settles O16: `CLR` leaves nothing loaded, and `issueAll_keyCommands` loads the key from there. -/
theorem loadingAKeyHoldsItsFirst256Bytes : Obligations.LoadingAKeyHoldsItsFirst256Bytes := by
  intro key s
  obtain ⟨t, hkeys, ht, hin⟩ := issueAll_keyCommands key ((loadedWith_startAfresh s).respond 0x00#8)
  refine ⟨t, ?_, ht.klen, ht.cells, ht.phase, ht.pf, hin⟩
  rw [issueAll_cons (issue_clr s), hkeys]
  rfl

end Sys2Proof.Machine
end

section
/-! SUPPORT. Proofs for 20_memory.md R64: what a step does with the event at the head of the port, that every command
and so every step has a next state, and that a command word is answered exactly once. -/

namespace Sys2Proof.Machine

/-! ### A step, event by event -/

theorem step_of_idle {s : State} (h : s.input = []) : step s = .next s := by
  simp only [step, serve, h]

/-- The word at the head of the command port is taken from it and accepted. -/
theorem step_of_word {s : State} {w : CmdWord} {rest : List HostEvent} (h : s.input = .command w :: rest) :
    step s = acceptWord w (s.setInput rest) := by
  simp only [step, serve, h]

theorem step_of_reset {s : State} {rest : List HostEvent} (h : s.input = .reset :: rest) :
    step s = .next (resetEvent (s.setInput rest)) := by
  simp only [step, serve, h]

theorem step_of_resetDuring {s : State} {w : CmdWord} {rest : List HostEvent} (h : s.input = .resetDuring w :: rest) :
    step s = .next (abandonCommand w (s.setInput rest)) := by
  simp only [step, serve, h]

theorem acceptWord_of_ok {w : CmdWord} {i : Instr} (h : decode w = .ok i) (s : State) :
    acceptWord w s = exec i s := by
  simp only [acceptWord, h]

theorem acceptWord_of_error {w : CmdWord} {e : IllegalWord} (h : decode w = .error e) (s : State) :
    acceptWord w s = .next (raiseFault .illegalCommand s) := by
  simp only [acceptWord, h]

/-- A row of the opcode table reads as the command that its word decodes to. -/
theorem decodeTableWord_eq_some {nbits w : Nat} {i : Instr} :
    decodeTableWord nbits w = some i ↔ decode (tableWord nbits w) = .ok i := by
  unfold decodeTableWord
  cases decode (tableWord nbits w) <;> simp

/-- Settles O5: the word placed by `withFetchWord` heads the port, and taking it gives the old state back. -/
theorem stepRunsTheDecodedCommand : Obligations.StepRunsTheDecodedCommand := by
  refine ⟨fun s w rest i hin hd => ?_, fun s nbits w i hd => ?_⟩
  · exact (step_of_word hin).trans (acceptWord_of_ok hd _)
  · have hin : (s.withFetchWord nbits w).input = .command (tableWord nbits w) :: s.input := rfl
    exact (step_of_word hin).trans (acceptWord_of_ok (decodeTableWord_eq_some.1 hd) _)

/-! ### Every step has a next state -/

/-- The refusal by phase is a next state, so admission keeps a total operation total. -/
theorem whenPhase_total {run : State → Outcome} (h : ∀ s, ∃ t, run s = .next t) (p : Phase) (s : State) :
    ∃ t, whenPhase p run s = .next t := by
  by_cases hp : s.PHASE = p
  · rw [whenPhase_same hp]
    exact h s
  · exact ⟨_, whenPhase_other hp⟩

/-- Every command has an effect in every state (60_exceptions.md R237). -/
theorem exec_total (i : Instr) (s : State) : ∃ t, exec i s = .next t := by
  cases i with
  | clr | rdrStatus | rdrI | rdrJ | rdrKlenl | rdrKlenh => exact ⟨_, rfl⟩
  | keyb _ | next | xorb _ | rds _ => exact whenPhase_total (fun _ => ⟨_, rfl⟩) _ s
  | ksa =>
    unfold exec execKsa
    refine whenPhase_total (fun s => ?_) _ s
    split_ifs
    · exact ⟨_, rfl⟩
    · exact ⟨_, rfl⟩

theorem acceptWord_total (w : CmdWord) (s : State) : ∃ t, acceptWord w s = .next t := by
  cases hd : decode w with
  | ok i => rw [acceptWord_of_ok hd]; exact exec_total i s
  | error e => exact ⟨_, acceptWord_of_error hd s⟩

/-- Settles O8: a word by `acceptWord_total`; the idle step and the two resets are next states as they stand. -/
theorem noStateStopsTheMachine : Obligations.NoStateStopsTheMachine := by
  intro s
  match hin : s.input with
  | [] => exact ⟨_, step_of_idle hin⟩
  | .command w :: _ => exact step_of_word hin ▸ acceptWord_total w _
  | .reset :: _ => exact ⟨_, step_of_reset hin⟩
  | .resetDuring _ :: _ => exact ⟨_, step_of_resetDuring hin⟩

/-! ### A command word is answered once -/

/-- `t` is `s` with one word answered: the command port is as in `s`, and one response word more is delivered, of the
form of 30_encoding.md R83. -/
def AnswersOnce (s t : State) : Prop :=
  t.input = s.input ∧ ∃ code data : Byte, t.output = s.output ++ [responseWord code data] ∧ code.toNat ≤ 3 ∧
    (code ≠ 0x00#8 → data = 0x00#8)

/-- A response word is made of its two fields. -/
theorem responseWord_fields (w : RspWord) : responseWord (codeOf w) (dataOf w) = w :=
  Laws.wordOf_fields w

theorem Effect.answersOnce {i : Instr} {s t : State} (h : Effect s i t) : AnswersOnce s t := by
  obtain ⟨w, ho, hc | rfl⟩ := h.answer
  · refine ⟨h.input_eq, 0x00#8, dataOf w, ?_, by decide, fun hne => absurd rfl hne⟩
    rw [ho, ← hc, responseWord_fields]
  · exact ⟨h.input_eq, FaultCause.invalidKey.code, 0x00#8, ho, by decide, fun _ => rfl⟩

/-- A fault answers its code with `DATA` 0x00 (60_exceptions.md R220). -/
theorem raiseFault_answersOnce (c : FaultCause) (s : State) : AnswersOnce s (raiseFault c s) := by
  cases c with
  | invalidKey | wrongPhase | illegalCommand => exact ⟨rfl, _, 0x00#8, rfl, by decide, fun _ => rfl⟩

/-- Whatever the word and the phase, accepting the word answers it once. -/
theorem acceptWord_answersOnce {w : CmdWord} {s t : State} (h : acceptWord w s = .next t) : AnswersOnce s t := by
  cases hd : decode w with
  | ok i =>
    rw [acceptWord_of_ok hd] at h
    rcases exec_cases h with he | rfl
    · exact he.answersOnce
    · exact raiseFault_answersOnce _ s
  | error e =>
    rw [acceptWord_of_error hd] at h
    cases h
    exact raiseFault_answersOnce _ s

/-- Settles O7: the step accepts the word on the state whose port has given it up. -/
theorem everyCommandWordIsAnsweredOnce : Obligations.EveryCommandWordIsAnsweredOnce := by
  intro s w rest hin
  obtain ⟨t, ht⟩ := acceptWord_total w (s.setInput rest)
  obtain ⟨hrest, code, data, hout, hcode, hdata⟩ := acceptWord_answersOnce ht
  exact ⟨t, code, data, (step_of_word hin).trans ht, hrest, hout, hcode, hdata⟩

end Sys2Proof.Machine
end

section
/-! SUPPORT. Proofs for 30_encoding.md: the legal words are the words of the commands, which have the forms of the
formats and are 776 in number. -/

namespace Sys2Proof.Laws

/-- Settles O9: on an operand byte the fields of the word give back the opcode and the byte. -/
theorem decodeOfEncodeIsTheCommand : Obligations.DecodeOfEncodeIsTheCommand :=
  decode_encode

/-- Settles O10: the branch of the decoder that accepts a word fixes its opcode and reads its operand. -/
theorem legalWordIsTheWordOfItsCommand : Obligations.LegalWordIsTheWordOfItsCommand :=
  fun _ _ => encode_of_decode

/-- The legal words are the words of the commands. -/
theorem exists_decode_iff_exists_encode {w : CmdWord} : (∃ i, decode w = .ok i) ↔ ∃ i, encode i = w := by
  constructor
  · rintro ⟨i, hd⟩
    exact ⟨i, encode_of_decode hd⟩
  · rintro ⟨i, rfl⟩
    exact ⟨i, decode_encode i⟩

/-! ### The formats -/

theorem wordWellFormed_encode (i : Instr) : wordWellFormed (encode i) = true := by
  cases i with
  | clr => exact EncodedWellFormed.clr
  | keyb b => exact EncodedWellFormed.keyb b
  | ksa => exact EncodedWellFormed.ksa
  | next => exact EncodedWellFormed.next
  | xorb m => exact EncodedWellFormed.xorb m
  | rds a => exact EncodedWellFormed.rds a
  | rdrStatus => exact EncodedWellFormed.rdrStatus
  | rdrI => exact EncodedWellFormed.rdrI
  | rdrJ => exact EncodedWellFormed.rdrJ
  | rdrKlenl => exact EncodedWellFormed.rdrKlenl
  | rdrKlenh => exact EncodedWellFormed.rdrKlenh

/-- The opcodes of each format (30_encoding.md R82). -/
theorem formatOf_eq_some {op : Nat} {f : Format} (h : formatOf op = some f) :
    (f = .z ∧ (op = 1 ∨ op = 3 ∨ op = 4)) ∨ (f = .b ∧ (op = 2 ∨ op = 5 ∨ op = 6)) ∨ (f = .r ∧ op = 7) := by
  unfold formatOf at h
  split_ifs at h with hz hb hr
  · cases h; exact .inl ⟨rfl, hz⟩
  · cases h; exact .inr (.inl ⟨rfl, hb⟩)
  · cases h; exact .inr (.inr ⟨rfl, hr⟩)

/-- A word of the form of a format has an opcode of that format and an operand that it admits. -/
theorem wordWellFormed_iff {w : CmdWord} :
    wordWellFormed w = true ↔ ∃ f, formatOf (opOf w).toNat = some f ∧ f.admits (argOf w).toNat = true := by
  rw [opOf_toNat, argOf_toNat, wordWellFormed]
  cases formatOf (w.toNat / 256) <;> simp

/-- The fields of a word, given as numbers, are the word. -/
theorem wordOf_of_toNat {w : CmdWord} {op arg : Byte} (hop : (opOf w).toNat = op.toNat)
    (harg : (argOf w).toNat = arg.toNat) : wordOf op arg = w := by
  rw [← BitVec.eq_of_toNat_eq hop, ← BitVec.eq_of_toNat_eq harg, wordOf_fields]

/-- The opcode and the operand of a well-formed word name its command (30_encoding.md R82, R84). -/
theorem exists_encode_of_wordWellFormed {w : CmdWord} (h : wordWellFormed w = true) : ∃ i, encode i = w := by
  obtain ⟨f, hf, harg⟩ := wordWellFormed_iff.1 h
  rcases formatOf_eq_some hf with ⟨rfl, hop⟩ | ⟨rfl, hop⟩ | ⟨rfl, hop⟩
  · have harg : (argOf w).toNat = 0 := by simpa [Format.admits] using harg
    rcases hop with hop | hop | hop
    · exact ⟨.clr, wordOf_of_toNat hop harg⟩
    · exact ⟨.ksa, wordOf_of_toNat hop harg⟩
    · exact ⟨.next, wordOf_of_toNat hop harg⟩
  · rcases hop with hop | hop | hop
    · exact ⟨.keyb (argOf w), wordOf_of_toNat hop rfl⟩
    · exact ⟨.xorb (argOf w), wordOf_of_toNat hop rfl⟩
    · exact ⟨.rds (argOf w), wordOf_of_toNat hop rfl⟩
  · have harg : (argOf w).toNat ≤ 4 := by simpa [Format.admits] using harg
    have hreg : (argOf w).toNat = 0 ∨ (argOf w).toNat = 1 ∨ (argOf w).toNat = 2 ∨ (argOf w).toNat = 3 ∨
        (argOf w).toNat = 4 := by omega
    rcases hreg with harg | harg | harg | harg | harg
    · exact ⟨.rdrStatus, wordOf_of_toNat hop harg⟩
    · exact ⟨.rdrI, wordOf_of_toNat hop harg⟩
    · exact ⟨.rdrJ, wordOf_of_toNat hop harg⟩
    · exact ⟨.rdrKlenl, wordOf_of_toNat hop harg⟩
    · exact ⟨.rdrKlenh, wordOf_of_toNat hop harg⟩

/-- Settles O11: both sides say that the word is the word of some command. -/
theorem legalWordsAreTheFormats : Obligations.LegalWordsAreTheFormats := by
  intro w
  rw [exists_decode_iff_exists_encode]
  constructor
  · rintro ⟨i, rfl⟩
    exact wordWellFormed_encode i
  · exact exists_encode_of_wordWellFormed

/-! ### The number of legal words -/

/-- Different commands have different words. -/
theorem encode_injective : Function.Injective encode := by
  intro i j h
  have hd : decode (encode i) = .ok j := by rw [h, decode_encode]
  exact Except.ok.inj ((decode_encode i).symm.trans hd)

/-- The 256 bytes, in order. -/
def allBytes : List Byte := List.ofFn BitVec.ofFin

theorem length_allBytes : allBytes.length = 256 := List.length_ofFn

theorem mem_allBytes (b : Byte) : b ∈ allBytes := List.mem_ofFn.2 ⟨b.toFin, rfl⟩

theorem nodup_allBytes : allBytes.Nodup :=
  List.nodup_ofFn.2 fun _ _ h => BitVec.ofFin.inj h

/-- The commands without a byte operand: formats Z and R. -/
def commandsWithoutByte : List Instr := [.clr, .ksa, .next, .rdrStatus, .rdrI, .rdrJ, .rdrKlenl, .rdrKlenh]

/-- Every command with every operand: 8 without a byte operand, and 3 of format B with 256 operands each. -/
def allCommands : List Instr :=
  commandsWithoutByte ++ (allBytes.map .keyb ++ (allBytes.map .xorb ++ allBytes.map .rds))

theorem length_allCommands : allCommands.length = 776 := by
  simp [allCommands, commandsWithoutByte, length_allBytes]

theorem mem_allCommands (i : Instr) : i ∈ allCommands := by
  cases i with
  | clr | ksa | next | rdrStatus | rdrI | rdrJ | rdrKlenl | rdrKlenh => exact List.mem_append_left _ (by decide)
  | keyb b | xorb b | rds b => simp [allCommands, mem_allBytes]

theorem nodup_allCommands : allCommands.Nodup := by
  have hfixed : commandsWithoutByte.Nodup := by decide
  have hkeyb : (allBytes.map Instr.keyb).Nodup := nodup_allBytes.map fun _ _ => Instr.keyb.inj
  have hxorb : (allBytes.map Instr.xorb).Nodup := nodup_allBytes.map fun _ _ => Instr.xorb.inj
  have hrds : (allBytes.map Instr.rds).Nodup := nodup_allBytes.map fun _ _ => Instr.rds.inj
  -- The parts have no command in common: their constructors differ.
  refine hfixed.append (hkeyb.append (hxorb.append hrds ?_) ?_) ?_ <;>
    simp [List.disjoint_left, commandsWithoutByte]

/-- Settles O12: the list is the words of all commands. -/
theorem thereAre776LegalWords : Obligations.ThereAre776LegalWords := by
  refine ⟨allCommands.map encode, nodup_allCommands.map encode_injective, ?_, fun w => ?_⟩
  · rw [List.length_map, length_allCommands]
  · simp [exists_decode_iff_exists_encode, mem_allCommands]

/-! ### Words of the spec's decoding table -/

/-- Settles O13: the legal words are the words of their commands; the decoder runs on the illegal ones. -/
theorem sampleWordsDecodeAsWritten : Obligations.SampleWordsDecodeAsWritten :=
  ⟨decode_encode .clr, decode_encode (.keyb 0xFF#8), decode_encode .ksa, decode_encode .next,
    decode_encode (.xorb 0xFF#8), decode_encode (.rds 0x00#8), decode_encode .rdrStatus, decode_encode .rdrI,
    decode_encode .rdrJ, decode_encode .rdrKlenl, decode_encode .rdrKlenh, rfl, rfl, rfl, rfl, rfl, rfl, rfl⟩

end Sys2Proof.Laws
end

section
/-! SUPPORT. Proofs for 40_context_and_key.md: the words and the effects of `CLR` and `KEYB`. -/

namespace Sys2Proof.Laws

/-- Format Z refuses every operand but 0x00 (30_encoding.md R88). -/
theorem decodeNoOperand_of_ne {arg : Byte} (h : arg ≠ 0x00#8) (i : Instr) :
    decodeNoOperand arg i = .error .operandNotZero := if_neg h

/-- The opcode of `CLR` is of format Z (30_encoding.md R84). -/
theorem decode_wordOf_clr (arg : Byte) : decode (wordOf 0x01#8 arg) = decodeNoOperand arg .clr := by
  simp [decode]

end Sys2Proof.Laws

namespace Sys2Proof.Machine

/-- `CLR` leaves the reset state but for the two ports, and answers 0x0000 (40_context_and_key.md R111, R112). -/
theorem exec_clr (s : State) :
    exec .clr s = .next { State.reset with input := s.input, output := s.output ++ [0x0000#16] } := rfl

/-- Settles O14: the decoder on the opcode of `CLR`, then the fields of the reset state that `exec_clr` leaves. -/
theorem clrStartsANewCall : Obligations.ClrStartsANewCall := by
  refine ⟨Laws.decode_encode .clr, fun arg harg => ?_, fun s => ?_⟩
  · exact (Laws.decode_wordOf_clr arg).trans (Laws.decodeNoOperand_of_ne harg .clr)
  · exact ⟨_, exec_clr s, rfl, rfl, rfl, rfl, rfl, fun _ => ⟨rfl, rfl⟩, rfl, rfl⟩

/-- In `LOAD`, `KEYB` appends its byte, or drops it, and answers 0x0000 (40_context_and_key.md R115). -/
theorem exec_keyb_of_load {s : State} (hp : s.PHASE = .load) (b : Byte) :
    exec (.keyb b) s = .next (respond 0x00#8 (appendKeyByte b s)) := by
  rw [exec, execKeyb, whenPhase_same hp]

/-- Outside `LOAD`, `KEYB` raises `WrongPhase` (40_context_and_key.md R116). -/
theorem exec_keyb_of_not_load {s : State} (hp : s.PHASE ≠ .load) (b : Byte) :
    exec (.keyb b) s = .next (raiseFault .wrongPhase s) := by
  rw [exec, execKeyb, whenPhase_other hp]

/-- Settles O15: by the phase, and in `LOAD` by whether the buffer has room for the byte. -/
theorem keybAppendsTheKeyByte : Obligations.KeybAppendsTheKeyByte := by
  refine ⟨fun b => Laws.decode_encode (.keyb b), fun s b hp hroom => ?_, fun s b hp hfull => ?_, fun s b hp => ?_⟩
  · refine ⟨_, exec_keyb_of_load hp b, ?_⟩
    rw [appendKeyByte_of_lt b hroom]
    exact ⟨Memory.read_write_same _ _ _, fun n hn => Memory.read_write_other _ _ hn,
      rfl, rfl, rfl, rfl, hp, rfl, rfl, rfl⟩
  · rw [exec_keyb_of_load hp b, appendKeyByte_of_ge b hfull.not_lt]
    rfl
  · rw [exec_keyb_of_not_load hp b, raiseFault_wrongPhase]

end Sys2Proof.Machine
end

section
/-! SUPPORT. Proofs for 41_key_scheduler.md: what `KSA` answers by the phase and `KLEN`, that its rounds on the memory
are the rounds of `schedule` on the function held, and that the rounds read no key byte from index 256 on. -/

namespace Sys2Proof.Machine

/-! ### `KSA`, by the phase and by `KLEN` -/

/-- In `LOAD` with a key, `KSA` runs the schedule and answers 0x0000 (41_key_scheduler.md R131). -/
theorem exec_ksa_of_key {s : State} (hp : s.PHASE = .load) (hk : s.KLEN.val ≠ 0) :
    exec .ksa s = .next (respond 0x00#8 (runSchedule s)) := by
  rw [exec, execKsa, whenPhase_same hp, if_neg hk]

/-- In `LOAD` without a key, `KSA` raises `InvalidKey` (41_key_scheduler.md R132). -/
theorem exec_ksa_of_empty {s : State} (hp : s.PHASE = .load) (hk : s.KLEN.val = 0) :
    exec .ksa s = .next (raiseFault .invalidKey s) := by
  rw [exec, execKsa, whenPhase_same hp, if_pos hk]

/-- Outside `LOAD`, `KSA` raises `WrongPhase` (41_key_scheduler.md R137). -/
theorem exec_ksa_of_not_load {s : State} (hp : s.PHASE ≠ .load) :
    exec .ksa s = .next (raiseFault .wrongPhase s) := by
  rw [exec, execKsa, whenPhase_other hp]

/-- The schedule writes every cell of S before it reads one (41_key_scheduler.md R134). -/
theorem runSchedule_setS (s : State) (m : Memory) : runSchedule (s.setS m) = runSchedule s := rfl

/-- In a memory that holds a permutation every cell holds a value. -/
theorem HoldsPermutation.isSome_read {m : Memory} (h : HoldsPermutation m) (a : Byte) :
    (m.read a.toNat).isSome = true := by
  obtain ⟨f, hf, -⟩ := h
  rw [hf a, Option.isSome_some]

/-- Settles O18: the fields of the state that `runSchedule` leaves, whose S the old S has no part in. -/
theorem ksaFrameAndIndependenceOfOldS : Obligations.KsaFrameAndIndependenceOfOldS := by
  intro s hp hk
  refine ⟨_, exec_ksa_of_key hp hk, wf_scheduledMemory _ _,
    (holdsPermutation_scheduledMemory s.K s.KLEN.val).isSome_read,
    rfl, rfl, rfl, rfl, rfl, rfl, rfl, rfl, fun m => ?_⟩
  have hm : exec .ksa (s.setS m) = .next (respond 0x00#8 (runSchedule (s.setS m))) := exec_ksa_of_key hp hk
  rwa [runSchedule_setS] at hm

/-- Settles O19: the schedule leaves a permutation whatever K holds. -/
theorem ksaLeavesAPermutation : Obligations.KsaLeavesAPermutation :=
  fun s hp hk => ⟨_, exec_ksa_of_key hp hk, holdsPermutation_scheduledMemory s.K s.KLEN.val⟩

/-! ### The rounds of `KSA` are the rounds of `schedule` -/

/-- The key byte of round `r`, read from a buffer that holds a key that is not empty. -/
theorem cellK_keyIndex {K : Memory} {key : List Byte} (hne : key ≠ [])
    (hK : ∀ n, n < key.length → K.read n = key[n]?) (r : Nat) :
    cellK K (keyIndex r key.length) = key.getD (r % key.length) 0#8 := by
  have hlt : r % key.length < key.length := Nat.mod_lt r (List.length_pos_iff.2 hne)
  apply cellK_of_read
  rw [keyIndex, hK _ hlt, List.getD_eq_getElem key _ hlt, List.getElem?_eq_getElem hlt]

/-- The memory between two rounds holds the function between them, and the accumulators are one. -/
def SameRoundState (p : Memory × Byte) (q : Perm × Byte) : Prop := HoldsFunction p.1 q.1 ∧ p.2 = q.2

/-- One round on the memory is one round on the function it holds (41_key_scheduler.md R130, R131). -/
theorem SameRoundState.round {K : Memory} {key : List Byte} (hne : key ≠ [])
    (hK : ∀ n, n < key.length → K.read n = key[n]?) {p : Memory × Byte} {q : Perm × Byte} (h : SameRoundState p q)
    (r : Nat) : SameRoundState (scheduleRound K key.length p r) (keyRound key q r) := by
  obtain ⟨hS, hjk⟩ := h
  have hsum : p.2 + cellS p.1 (BitVec.ofNat 8 r) + cellK K (keyIndex r key.length) =
      q.2 + q.1 (BitVec.ofNat 8 r) + key.getD (r % key.length) 0#8 := by
    rw [hjk, hS.cellS, cellK_keyIndex hne hK]
  unfold scheduleRound keyRound
  rw [hsum]
  exact ⟨hS.swapCells _ _, rfl⟩

/-- With a key that is not empty in K, the scheduled memory holds the scheduled function. -/
theorem holdsFunction_scheduledMemory {K : Memory} {key : List Byte} (hne : key ≠ [])
    (hK : ∀ n, n < key.length → K.read n = key[n]?) :
    HoldsFunction (scheduledMemory K key.length) (scheduledPerm key) := by
  have rounds : SameRoundState ((List.range Config.N).foldl (scheduleRound K key.length) (identityMemory, 0#8))
      ((List.range Config.N).foldl (keyRound key) (id, 0#8)) :=
    List.foldl_rel ⟨holdsFunction_identityMemory, rfl⟩ fun r _ _ _ h => h.round hne hK r
  unfold scheduledMemory scheduledPerm
  exact rounds.1

/-- `schedule` is defined on every key that is not empty (41_key_scheduler.md R130). -/
theorem schedule_of_ne_nil {key : List Byte} (hne : key ≠ []) : schedule key = some (scheduledPerm key) := if_neg hne

/-- Settles O17: by the phase, and in `LOAD` by whether the key is empty; a key that is not is held in K, so the
rounds on S are those of `schedule`. -/
theorem ksaSchedulesTheLoadedKey : Obligations.KsaSchedulesTheLoadedKey := by
  refine ⟨Laws.decode_encode .ksa, fun s key hp hne hkey => ?_, fun s hp hk => ?_, fun s hp => ?_⟩
  · obtain ⟨hklen, hK⟩ := hkey
    have hk : s.KLEN.val ≠ 0 := hklen ▸ (List.length_pos_iff.2 hne).ne'
    have hS : HoldsFunction (scheduledMemory s.K s.KLEN.val) (scheduledPerm key) :=
      hklen ▸ holdsFunction_scheduledMemory hne hK
    exact ⟨_, _, exec_ksa_of_key hp hk, schedule_of_ne_nil hne, hS, rfl, rfl, rfl, rfl, rfl, rfl, rfl, rfl⟩
  · rw [exec_ksa_of_empty hp hk, raiseFault_invalidKey]
  · rw [exec_ksa_of_not_load hp, raiseFault_wrongPhase]

/-! ### Long keys -/

/-- Round `r < 256` reads of a key longer than 256 bytes the byte at index `r`, which is in its first 256 bytes. -/
theorem keyRound_take {key : List Byte} (hlen : 256 < key.length) {r : Nat} (hr : r < 256) (p : Perm × Byte) :
    keyRound (key.take 256) p r = keyRound key p r := by
  have hbyte : (key.take 256).getD (r % (key.take 256).length) 0#8 = key.getD (r % key.length) 0#8 := by
    rw [List.length_take_of_le hlen.le, Nat.mod_eq_of_lt hr, Nat.mod_eq_of_lt (hr.trans hlen),
      List.getD_eq_getElem?_getD, List.getElem?_take_of_lt hr, List.getD_eq_getElem?_getD]
  simp only [keyRound, hbyte]

/-- The key bytes from index 256 on have no influence (41_key_scheduler.md R136). -/
theorem scheduledPerm_take {key : List Byte} (hlen : 256 < key.length) :
    scheduledPerm (key.take 256) = scheduledPerm key := by
  unfold scheduledPerm
  rw [List.foldl_ext _ _ _ fun p r hr => keyRound_take hlen (List.mem_range.1 hr) p]

/-- Settles O20: neither key is empty, and all their rounds are the same. -/
theorem longKeysScheduleAsTheirPrefix : Obligations.LongKeysScheduleAsTheirPrefix := by
  intro key hlen
  have hne : key ≠ [] := List.ne_nil_of_length_pos (by omega)
  have htake : key.take 256 ≠ [] := by simp [hne]
  rw [schedule_of_ne_nil hne, schedule_of_ne_nil htake, scheduledPerm_take hlen]

end Sys2Proof.Machine
end

section
/-! SUPPORT. Proofs for 42_keystream_generator.md: in `RUN` both generator commands take one generator step, which is
`prga` on the generator held, a swap of S and a move of the cursors. -/

namespace Sys2Proof.Machine

/-! ### What the generator commands do, by the phase -/

/-- In `RUN`, `NEXT` steps the generator and answers its byte (42_keystream_generator.md R151). -/
theorem exec_next_of_run {s : State} (hp : s.PHASE = .run) :
    exec .next s = .next (respond (outputByte (generatorStep s)) (generatorStep s)) := by
  rw [exec, execNext, whenPhase_same hp]

/-- Outside `RUN`, `NEXT` raises `WrongPhase` (42_keystream_generator.md R156). -/
theorem exec_next_of_not_run {s : State} (hp : s.PHASE ≠ .run) :
    exec .next s = .next (raiseFault .wrongPhase s) := by
  rw [exec, execNext, whenPhase_other hp]

/-- In `RUN`, `XORB m` steps the generator and answers `m` XOR its byte (43_cipher_transform.md R171). -/
theorem exec_xorb_of_run {s : State} (hp : s.PHASE = .run) (m : Byte) :
    exec (.xorb m) s = .next (respond (m ^^^ outputByte (generatorStep s)) (generatorStep s)) := by
  rw [exec, execXorb, whenPhase_same hp]

/-- In `RUN`, `NEXT` and `XORB` are one generator step and an `OK` answer (43_cipher_transform.md R173). -/
theorem exec_generatorCommand {s : State} {i : Instr} (hp : s.PHASE = .run) (hi : i = .next ∨ ∃ m, i = .xorb m) :
    ∃ d, exec i s = .next (respond d (generatorStep s)) := by
  obtain rfl | ⟨m, rfl⟩ := hi
  · exact ⟨_, exec_next_of_run hp⟩
  · exact ⟨_, exec_xorb_of_run hp m⟩

/-! ### The generator step is `prga` -/

/-- The machine holds the generator state `g`: its function in S, its cursors in `I` and `J`. -/
structure HoldsGenerator (s : State) (g : Generator) : Prop where
  cells : HoldsFunction s.S g.S
  i : s.I = g.I
  j : s.J = g.J

/-- One generator step of the machine is `prga` on the generator it holds (42_keystream_generator.md R150, R151). -/
theorem HoldsGenerator.generatorStep {s : State} {g : Generator} (h : HoldsGenerator s g) :
    HoldsGenerator (generatorStep s) (prga g).1 := by
  obtain ⟨hS, hI, hJ⟩ := h
  rw [generatorStep_eq, hI, hJ, hS.cellS]
  exact ⟨hS.swapCells _ _, rfl, rfl⟩

/-- The output byte is read from the function held, at the cursors held. -/
theorem HoldsGenerator.outputByte {s : State} {g : Generator} (h : HoldsGenerator s g) :
    outputByte s = g.S (g.S g.I + g.S g.J) := by
  obtain ⟨hS, hI, hJ⟩ := h
  rw [Machine.outputByte, hI, hJ, hS.cellS, hS.cellS, hS.cellS]

/-- The byte after the step is the byte of `prga`: both read the function after the swap (20_memory.md R59). -/
theorem HoldsGenerator.outputByte_generatorStep {s : State} {g : Generator} (h : HoldsGenerator s g) :
    Machine.outputByte (Machine.generatorStep s) = (prga g).2 :=
  h.generatorStep.outputByte

/-- Settles O21: by the phase; in `RUN` the machine holds `⟨f, I, J⟩`, and the step is `prga` on it. -/
theorem nextIsOneGeneratorStep : Obligations.NextIsOneGeneratorStep := by
  refine ⟨Laws.decode_encode .next, fun s f hp hf => ?_, fun s hp => ?_⟩
  · have hg : HoldsGenerator s ⟨f, s.I, s.J⟩ := ⟨hf, rfl, rfl⟩
    obtain ⟨hS, hI, hJ⟩ := hg.generatorStep
    refine ⟨_, exec_next_of_run hp, hS, hI, hJ, ?_, rfl, rfl, hp, rfl, rfl⟩
    rw [hg.outputByte_generatorStep]
    rfl
  · rw [exec_next_of_not_run hp, raiseFault_wrongPhase]

/-! ### The frame of the step, and the permutation -/

/-- The second cell of a swap holds what the first held. -/
theorem read_swapCells_right (m : Memory) (a b : Byte) : (swapCells m a b).read b.toNat = some (cellS m a) := by
  rw [read_swapCells, if_pos rfl]

/-- The first cell of a swap holds what the second held, also when they are one cell. -/
theorem read_swapCells_left (m : Memory) (a b : Byte) : (swapCells m a b).read a.toNat = some (cellS m b) := by
  by_cases h : a = b
  · rw [h, read_swapCells_right]
  · rw [read_swapCells, if_neg (mt BitVec.toNat_inj.1 h), if_pos rfl]

/-- A swap leaves every cell but its two. -/
theorem read_swapCells_other (m : Memory) {a b : Byte} {n : Nat} (ha : n ≠ a.toNat) (hb : n ≠ b.toNat) :
    (swapCells m a b).read n = m.read n := by
  rw [read_swapCells, if_neg hb, if_neg ha]

/-- Settles O23: the fields of the state that `generatorStep` leaves, whose S is the old S after one swap. -/
theorem generatorStepFrame : Obligations.GeneratorStepFrame := by
  intro s i hp hi
  obtain ⟨d, he⟩ := exec_generatorCommand hp hi
  exact ⟨_, d, he, rfl, rfl, read_swapCells_left _ _ _, read_swapCells_right _ _ _,
    fun _ hI hJ => read_swapCells_other _ hI hJ, rfl, rfl, rfl, rfl, rfl, rfl⟩

/-- Settles O24: the step's only write to S is a swap. -/
theorem generatorStepKeepsThePermutation : Obligations.GeneratorStepKeepsThePermutation := by
  intro s i hp hi hS
  obtain ⟨d, he⟩ := exec_generatorCommand hp hi
  exact ⟨_, he, hS.swapCells _ _⟩

/-! ### The cursor `I` counts the steps -/

/-- Issuing a generator command in `RUN` is one generator step and an `OK` response. -/
theorem issue_generatorCommand {s : State} {i : Instr} (hp : s.PHASE = .run) (hi : i = .next ∨ ∃ m, i = .xorb m) :
    ∃ d, issue i s = some (respond d (generatorStep s), responseWord 0x00#8 d) := by
  obtain ⟨d, he⟩ := exec_generatorCommand hp hi
  exact ⟨d, issue_of_exec (Laws.decode_encode i) he rfl⟩

/-- Settles O26: by induction on the commands; the first moves `I` on by one and stays in `RUN`. -/
theorem cursorICountsGeneratorSteps : Obligations.CursorICountsGeneratorSteps := by
  intro is
  induction is with
  | nil =>
    intro s hp _
    exact ⟨s, [], rfl, (Nat.mod_eq_of_lt s.I.isLt).symm, hp, rfl, nofun⟩
  | cons i is ih =>
    intro s hp his
    obtain ⟨hi, hrest⟩ := List.forall_mem_cons.1 his
    obtain ⟨d, hissue⟩ := issue_generatorCommand hp hi
    obtain ⟨t, ws, hall, hI, hrun, hlen, hok⟩ := ih (respond d (generatorStep s)) hp hrest
    refine ⟨t, responseWord 0x00#8 d :: ws, ?_, ?_, hrun, congrArg (· + 1) hlen,
      List.forall_mem_cons.2 ⟨codeOf_responseWord _ _, hok⟩⟩
    · rw [issueAll_cons hissue, hall]
      rfl
    · have hstep : (respond d (generatorStep s)).I.toNat = (s.I.toNat + 1) % 256 := BitVec.toNat_add s.I 1#8
      rw [hI, hstep, List.length_cons]
      omega

end Sys2Proof.Machine
end

section
/-! SUPPORT. Proofs for 43_cipher_transform.md: `XORB` is the generator step of `NEXT` with another byte, and a
transform call is followed command by command, so that its state after, its responses and its result are known. -/

namespace Sys2Proof.Machine

/-! ### `XORB` -/

/-- Outside `RUN`, `XORB m` raises `WrongPhase` (43_cipher_transform.md R172). -/
theorem exec_xorb_of_not_run {s : State} (hp : s.PHASE ≠ .run) (m : Byte) :
    exec (.xorb m) s = .next (raiseFault .wrongPhase s) := by
  rw [exec, execXorb, whenPhase_other hp]

/-- Settles O22: by the phase; in `RUN` the step is `prga` on the generator held, and `m` enters the answer alone. -/
theorem xorbXorsTheMessageByte : Obligations.XorbXorsTheMessageByte := by
  refine ⟨fun m => Laws.decode_encode (.xorb m), fun s m f hp hf => ?_, fun s m hp => ?_⟩
  · have hg : HoldsGenerator s ⟨f, s.I, s.J⟩ := ⟨hf, rfl, rfl⟩
    obtain ⟨hS, hI, hJ⟩ := hg.generatorStep
    refine ⟨_, exec_xorb_of_run hp m, hS, hI, hJ, ?_, rfl, rfl, hp, rfl, rfl, fun m' => ⟨_, exec_xorb_of_run hp m'⟩⟩
    rw [hg.outputByte_generatorStep]
    rfl
  · rw [exec_xorb_of_not_run hp, raiseFault_wrongPhase]

/-- `XORB 0x00` is `NEXT`, refusals by phase included (43_cipher_transform.md R173). -/
theorem exec_xorb_zero (s : State) : exec (.xorb 0x00#8) s = exec .next s := by
  by_cases hp : s.PHASE = .run
  · rw [exec_xorb_of_run hp, exec_next_of_run hp, BitVec.zero_xor]
  · rw [exec_xorb_of_not_run hp, exec_next_of_not_run hp]

/-- Settles O25: the state is the one after the generator step, `k` its output byte. -/
theorem xorbAndNextDifferOnlyInTheByte : Obligations.XorbAndNextDifferOnlyInTheByte := by
  refine ⟨fun s hp => ?_, exec_xorb_zero⟩
  have hcompl : 0xFF#8 ^^^ outputByte (generatorStep s) = ~~~outputByte (generatorStep s) := BitVec.allOnes_xor
  exact ⟨generatorStep s, outputByte (generatorStep s), exec_next_of_run hp, exec_xorb_of_run hp,
    hcompl ▸ exec_xorb_of_run hp 0xFF#8⟩

/-! ### The ports during a call -/

/-- From `s` to `t` the host has got the responses `ws`, and its later events still wait. -/
structure Answered (s t : State) (ws : List RspWord) : Prop where
  input : t.input = s.input
  output : t.output = s.output ++ ws

theorem Answered.trans {s t u : State} {ws ws' : List RspWord} (h : Answered s t ws) (h' : Answered t u ws') :
    Answered s u (ws ++ ws') :=
  ⟨h'.input.trans h.input, by rw [h'.output, h.output, List.append_assoc]⟩

/-- The response word of an issued command is the one word it delivers. -/
theorem answered_of_issue {i : Instr} {s t : State} {w : RspWord} (h : issue i s = some (t, w)) :
    Answered s t [w] := by
  obtain ⟨u, hu⟩ := acceptWord_total (encode i) s
  have hstep : step (placeCommand (encode i) s) = .next u := (step_of_word rfl).trans hu
  obtain ⟨hin, code, data, hout, -⟩ := acceptWord_answersOnce hu
  have hu : (u, responseWord code data) = (t, w) := by simpa [issue, hstep, hout] using h
  cases hu
  exact ⟨hin, hout⟩

/-- The response words of issued commands are the words they deliver, in order. -/
theorem answered_of_issueAll {is : List Instr} {s t : State} {ws : List RspWord}
    (h : issueAll is s = some (t, ws)) : Answered s t ws := by
  induction is generalizing s ws with
  | nil =>
    cases h
    exact ⟨rfl, (List.append_nil _).symm⟩
  | cons i is ih =>
    simp only [issueAll, Option.bind_eq_some_iff, Option.map_eq_some_iff] at h
    obtain ⟨⟨u, w⟩, hi, ⟨v, ws'⟩, his, hv⟩ := h
    cases hv
    exact (answered_of_issue hi).trans (ih his)

/-- The state that a call started in `s` leaves once it has got the responses `ws`: the reset state but for the ports
(43_cipher_transform.md R180). -/
def afterCall (s : State) (ws : List RspWord) : State :=
  { State.reset with input := s.input, output := s.output ++ ws }

/-- The last command of a call, `CLR`, leaves nothing of it but its responses. -/
theorem issue_clr_of_answered {s t : State} {ws : List RspWord} (h : Answered s t ws) :
    issue .clr t = some (afterCall s (ws ++ [0x0000#16]), 0x0000#16) := by
  have hend : respond 0x00#8 (startAfresh t) = afterCall s (ws ++ [0x0000#16]) := by
    rw [respond_eq, startAfresh_eq, afterCall, h.input, h.output, List.append_assoc]
    rfl
  rw [issue_clr, hend]

/-! ### The commands of a call -/

/-- `CLR` and the key bytes of a call, from any state, load the key. -/
theorem issueAll_clr_keyCommands (key : List Byte) (s : State) :
    ∃ t, issueAll (.clr :: keyCommands key) s = some (t, List.replicate (key.length + 1) 0x0000#16) ∧
      LoadedWith t key := by
  obtain ⟨t, hall, hklen, hcells, hphase, hpf, -⟩ := loadingAKeyHoldsItsFirst256Bytes key s
  exact ⟨t, hall, hphase, hpf, hklen, hcells⟩

theorem LoadedWith.klen_eq_zero_iff {s : State} {key : List Byte} (h : LoadedWith s key) :
    s.KLEN.val = 0 ↔ key = [] := by
  rw [h.klen, ← List.length_eq_zero_iff]
  omega

/-- A key and its first 256 bytes have one schedule, whatever the key's length (41_key_scheduler.md R136). -/
theorem scheduledPerm_take_256 (key : List Byte) : scheduledPerm (key.take 256) = scheduledPerm key := by
  by_cases hlen : 256 < key.length
  · exact scheduledPerm_take hlen
  · rw [List.take_of_length_le (not_lt.1 hlen)]

/-- After `KSA` on a loaded key that is not empty, the machine holds the first generator state of `keystream`: K holds
the first 256 bytes of the key, and they schedule as the key does. -/
theorem LoadedWith.holdsGenerator {s : State} {key : List Byte} (h : LoadedWith s key) (hne : key ≠ []) :
    HoldsGenerator (runSchedule s) ⟨scheduledPerm key, 0#8, 0#8⟩ := by
  have hklen : s.KLEN.val = (key.take 256).length := by rw [h.klen, List.length_take]
  have hK : ∀ n, n < (key.take 256).length → s.K.read n = (key.take 256)[n]? := by
    intro n hn
    have hn : n < 256 := hn.trans_le (List.length_take_le 256 key)
    rw [h.cells n hn, List.getElem?_take_of_lt hn]
  have hS : HoldsFunction (scheduledMemory s.K s.KLEN.val) (scheduledPerm (key.take 256)) :=
    hklen ▸ holdsFunction_scheduledMemory (by simp [hne]) hK
  exact ⟨scheduledPerm_take_256 key ▸ hS, rfl, rfl⟩

/-- The message bytes XOR the bytes that `prga` gives from the generator state `g` (43_cipher_transform.md R170). -/
def maskedFrom (g : Generator) (message : List Byte) : List Byte :=
  List.zipWith (· ^^^ ·) message (prgaBytes message.length g).2

/-- In `RUN`, `XORB` answers the message byte XOR the byte of `prga` on the generator held. -/
theorem HoldsGenerator.issue_xorb {s : State} {g : Generator} (h : HoldsGenerator s g) (hp : s.PHASE = .run)
    (m : Byte) :
    ∃ t, issue (.xorb m) s = some (t, responseWord 0x00#8 (m ^^^ (prga g).2)) ∧ HoldsGenerator t (prga g).1 ∧
      t.PHASE = .run := by
  refine ⟨_, issue_of_exec (Laws.decode_encode _) (exec_xorb_of_run hp m) ?_, ?_, hp⟩
  · rw [h.outputByte_generatorStep]
    rfl
  · obtain ⟨hS, hI, hJ⟩ := h.generatorStep
    exact ⟨hS, hI, hJ⟩

/-- The message bytes of a call are answered, in order, with their transforms. -/
theorem HoldsGenerator.issueAll_xorsCommands {s : State} {g : Generator} (h : HoldsGenerator s g)
    (hp : s.PHASE = .run) (message : List Byte) :
    ∃ t, issueAll (xorsCommands message) s = some (t, (maskedFrom g message).map (responseWord 0x00#8)) := by
  induction message generalizing s g with
  | nil => exact ⟨s, rfl⟩
  | cons m message ih =>
    obtain ⟨t, hm, ht, hrun⟩ := h.issue_xorb hp m
    obtain ⟨u, hrest⟩ := ih ht hrun
    refine ⟨u, ?_⟩
    show issueAll (.xorb m :: xorsCommands message) s = _
    rw [issueAll_cons hm, hrest]
    rfl

/-! ### The whole call -/

/-- With a key that is not empty, `transform` is defined, and it XORs the message with the keystream. -/
theorem transform_of_ne_nil {key : List Byte} (hne : key ≠ []) (message : List Byte) :
    transform key message = some (maskedFrom ⟨scheduledPerm key, 0#8, 0#8⟩ message) := by
  rw [transform, keystream, schedule_of_ne_nil hne]
  rfl

/-- The responses of a call with the empty key: of `CLR`, `KSA`, `CLR` (43_cipher_transform.md R184). -/
def emptyKeyResponses : List RspWord := [0x0000#16, 0x0100#16, 0x0000#16]

/-- The responses of a call with a key that is not empty and the output `out`: of `CLR` and the key bytes, of `KSA`,
of the message bytes, of `CLR` (43_cipher_transform.md R180). -/
def successResponses (key out : List Byte) : List RspWord :=
  List.replicate (key.length + 1) 0x0000#16 ++ [0x0000#16] ++ out.map (responseWord 0x00#8) ++ [0x0000#16]

/-- A call with the empty key: `KSA` raises `InvalidKey`, and the host ends the call. -/
theorem transformCall_nil (message : List Byte) (s : State) :
    transformCall [] message s = some (afterCall s emptyKeyResponses, .invalidKey) := by
  obtain ⟨t, hload, hkey⟩ := issueAll_clr_keyCommands [] s
  have hksa : issue .ksa t = some (raiseFault .invalidKey t, 0x0100#16) :=
    issue_of_exec rfl (exec_ksa_of_empty hkey.phase (hkey.klen_eq_zero_iff.2 rfl)) rfl
  have hclr := issue_clr_of_answered ((answered_of_issueAll hload).trans (answered_of_issue hksa))
  have hcode : codeOf 0x0100#16 = FaultCause.invalidKey.code := rfl
  simp only [transformCall, hload, hksa, finishCall, if_pos hcode, hclr, Option.bind_some, Option.map_some]
  rfl

/-- A call with a key that is not empty: `KSA` schedules the key, and each message byte is answered with its
transform. -/
theorem transformCall_of_ne_nil {key : List Byte} (hne : key ≠ []) (message : List Byte) (s : State) :
    ∃ out, transform key message = some out ∧
      transformCall key message s = some (afterCall s (successResponses key out), .output out) := by
  refine ⟨_, transform_of_ne_nil hne message, ?_⟩
  obtain ⟨t, hload, hkey⟩ := issueAll_clr_keyCommands key s
  have hksa : issue .ksa t = some (respond 0x00#8 (runSchedule t), 0x0000#16) :=
    issue_of_exec rfl (exec_ksa_of_key hkey.phase (mt hkey.klen_eq_zero_iff.1 hne)) rfl
  obtain ⟨hS, hI, hJ⟩ := hkey.holdsGenerator hne
  have hgen : HoldsGenerator (respond 0x00#8 (runSchedule t)) ⟨scheduledPerm key, 0#8, 0#8⟩ := ⟨hS, hI, hJ⟩
  obtain ⟨u, hxors⟩ := hgen.issueAll_xorsCommands rfl message
  have hclr := issue_clr_of_answered
    (((answered_of_issueAll hload).trans (answered_of_issue hksa)).trans (answered_of_issueAll hxors))
  have hcode : codeOf 0x0000#16 ≠ FaultCause.invalidKey.code := by decide
  have hdata : dataOf ∘ responseWord 0x00#8 = id := funext (dataOf_responseWord _)
  simp only [transformCall, hload, hksa, finishCall, if_neg hcode, hxors, hclr, Option.bind_some, Option.map_some,
    List.map_map, hdata, List.map_id, successResponses]

/-- Settles O45: by whether the key is empty. -/
theorem transformCallComputesTransform : Obligations.TransformCallComputesTransform := by
  intro key message s
  by_cases hkey : key = []
  · subst hkey
    exact ⟨_, transformCall_nil message s⟩
  · obtain ⟨out, htr, hcall⟩ := transformCall_of_ne_nil hkey message s
    exact ⟨_, by rw [htr, hcall]⟩

/-- Settles O47: the responses are part of what is known of the call. -/
theorem emptyKeyCallFailsWithoutOutput : Obligations.EmptyKeyCallFailsWithoutOutput :=
  fun message s => ⟨_, transformCall_nil message s, rfl⟩

/-! ### The length of the output, and the call made twice -/

theorem length_prgaBytes (n : Nat) (g : Generator) : (prgaBytes n g).2.length = n := by
  induction n generalizing g with
  | zero => rfl
  | succ n ih => exact congrArg (· + 1) (ih (prga g).1)

theorem length_maskedFrom (g : Generator) (message : List Byte) :
    (maskedFrom g message).length = message.length := by
  rw [maskedFrom, List.length_zipWith, length_prgaBytes, min_self]

/-- XOR with the same bytes twice gives the list back. -/
theorem zipWith_xor_zipWith_xor {l ks : List Byte} (h : l.length = ks.length) :
    List.zipWith (· ^^^ ·) (List.zipWith (· ^^^ ·) l ks) ks = l := by
  induction l generalizing ks with
  | nil => rfl
  | cons m l ih =>
    cases ks with
    | nil => cases h
    | cons k ks =>
      rw [List.zipWith_cons_cons, List.zipWith_cons_cons, ih (Nat.succ.inj h), BitVec.xor_assoc, BitVec.xor_self,
        BitVec.xor_zero]

/-- The keystream bytes depend on the message's length alone, so they cancel (43_cipher_transform.md R182). -/
theorem maskedFrom_maskedFrom (g : Generator) (message : List Byte) :
    maskedFrom g (maskedFrom g message) = message := by
  conv_lhs => rw [maskedFrom, length_maskedFrom]
  exact zipWith_xor_zipWith_xor (length_prgaBytes _ g).symm

theorem length_of_transform {key message out : List Byte} (h : transform key message = some out) :
    out.length = message.length := by
  by_cases hkey : key = []
  · subst hkey
    cases h
  · rw [transform_of_ne_nil hkey] at h
    cases h
    exact length_maskedFrom _ message

theorem transform_involutive {key message out : List Byte} (h : transform key message = some out) :
    transform key out = some message := by
  by_cases hkey : key = []
  · subst hkey
    cases h
  · rw [transform_of_ne_nil hkey] at h ⊢
    cases h
    rw [maskedFrom_maskedFrom]

/-- Settles O48: the output is that of `transform`. -/
theorem outputIsAsLongAsTheMessage : Obligations.OutputIsAsLongAsTheMessage := by
  intro key message s hkey
  obtain ⟨out, htr, hcall⟩ := transformCall_of_ne_nil hkey message s
  exact ⟨_, out, hcall, length_of_transform htr⟩

/-- Settles O46: both calls compute `transform`, which is its own inverse. -/
theorem transformCallIsAnInvolution : Obligations.TransformCallIsAnInvolution := by
  intro key message s s' hkey
  obtain ⟨out, htr, hcall⟩ := transformCall_of_ne_nil hkey message s
  obtain ⟨message', htr', hcall'⟩ := transformCall_of_ne_nil hkey out s'
  obtain rfl : message = message' := Option.some.inj ((transform_involutive htr).symm.trans htr')
  exact ⟨_, _, out, hcall, hcall'⟩

/-! ### The faults a call can meet -/

/-- A response of a call with the empty key is `OK` or `InvalidKey`. -/
theorem codeOf_of_mem_emptyKeyResponses {w : RspWord} (h : w ∈ emptyKeyResponses) :
    codeOf w = 0x00#8 ∨ w = 0x0100#16 := by
  simp only [emptyKeyResponses, List.mem_cons, List.not_mem_nil, or_false] at h
  obtain rfl | rfl | rfl := h
  · exact .inl rfl
  · exact .inr rfl
  · exact .inl rfl

/-- All responses of a call with a key that is not empty are `OK`. -/
theorem codeOf_of_mem_successResponses {key out : List Byte} {w : RspWord} (h : w ∈ successResponses key out) :
    codeOf w = 0x00#8 := by
  simp only [successResponses, List.mem_append, List.mem_replicate, List.mem_singleton, List.mem_map] at h
  obtain ((⟨-, rfl⟩ | rfl) | ⟨d, -, rfl⟩) | rfl := h
  · rfl
  · rfl
  · exact codeOf_responseWord _ _
  · rfl

/-- Settles O49: the empty key's three responses are listed; with another key all are `OK`, so none is `InvalidKey`. -/
theorem transformCallMeetsNoInterfaceFault : Obligations.TransformCallMeetsNoInterfaceFault := by
  intro key message s
  by_cases hkey : key = []
  · subst hkey
    exact ⟨_, _, emptyKeyResponses, transformCall_nil message s, rfl, fun _ => codeOf_of_mem_emptyKeyResponses,
      by simp [emptyKeyResponses], by simp, rfl⟩
  · obtain ⟨out, -, hcall⟩ := transformCall_of_ne_nil hkey message s
    have hnot : 0x0100#16 ∉ successResponses key out := fun h =>
      absurd (codeOf_of_mem_successResponses h) (by decide)
    exact ⟨_, _, successResponses key out, hcall, rfl, fun w hw => .inl (codeOf_of_mem_successResponses hw),
      by simp [hkey, hnot], by simp [hkey], rfl⟩

end Sys2Proof.Machine
end

section
/-! SUPPORT. Proofs for 44_observation.md: the word of `RDR` with a register number above 4, the values of the register
views, what the observation commands answer, and that no command reads the responses delivered before it. -/

namespace Sys2Proof.Laws

/-- The opcode of `RDR` is of format R (30_encoding.md R84). -/
theorem decode_wordOf_rdr (arg : Byte) : decode (wordOf 0x07#8 arg) = decodeRegister arg := by
  simp [decode]

/-- There is no register above number 4 (30_encoding.md R90). -/
theorem decodeRegister_of_ge {arg : Byte} (h : 5 ≤ arg.toNat) : decodeRegister arg = .error .registerNumber := by
  have other : ∀ n : Byte, n.toNat < 5 → arg ≠ n := by
    rintro n hn rfl
    omega
  rw [decodeRegister, if_neg (other _ (by decide)), if_neg (other _ (by decide)), if_neg (other _ (by decide)),
    if_neg (other _ (by decide)), if_neg (other _ (by decide))]

end Sys2Proof.Laws

namespace Sys2Proof.Machine

/-! ### The register views as numbers (10_state.md R30) -/

/-- The word of an `OK` answer, as a number, is its `DATA` (30_encoding.md R83). -/
theorem okWord_eq_ofNat (d : Byte) : (0x00#8 ++ d : BitVec 16) = BitVec.ofNat 16 d.toNat := by
  apply BitVec.eq_of_toNat_eq
  have hd := d.isLt
  have hword : (0x00#8 ++ d : BitVec 16).toNat = (0x00#8).toNat * 256 + d.toNat := Laws.wordOf_toNat 0x00#8 d
  rw [hword, BitVec.toNat_ofNat, BitVec.toNat_ofNat]
  omega

theorem statusByte_toNat (s : State) : (statusByte s).toNat = (if s.PF then 4 else 0) + s.PHASE.code.toNat := by
  unfold statusByte
  cases s.PF <;> cases s.PHASE <;> rfl

/-- `STATUS` has one value for each `PF` and each phase (44_observation.md R206). -/
theorem statusByte_mem (s : State) : statusByte s ∈ [0x00#8, 0x01#8, 0x02#8, 0x04#8, 0x05#8, 0x06#8] := by
  unfold statusByte
  cases s.PF <;> cases s.PHASE <;> decide

theorem klenWord_toNat (s : State) : (klenWord s).toNat = s.KLEN.val := by
  have hlt : s.KLEN.val < 2 ^ 9 := s.KLEN.isLt.trans (by decide)
  rw [klenWord, BitVec.toNat_ofNat, Nat.mod_eq_of_lt hlt]

theorem klenLow_toNat (s : State) : (klenLow s).toNat = s.KLEN.val % 256 := by
  rw [klenLow, BitVec.extractLsb'_toNat, klenWord_toNat]
  rfl

theorem klenHigh_toNat (s : State) : (klenHigh s).toNat = s.KLEN.val / 256 := by
  have hlt : s.KLEN.val < 257 := s.KLEN.isLt
  rw [klenHigh, BitVec.toNat_append, BitVec.extractLsb'_toNat, klenWord_toNat, Nat.shiftRight_eq_div_pow,
    BitVec.toNat_ofNat, Nat.zero_mod, Nat.zero_shiftLeft, Nat.zero_or]
  omega

/-! ### What the observation commands answer -/

/-- In `RUN`, `RDS a` answers the cell `a` (44_observation.md R201). -/
theorem exec_rds_of_run {s : State} (hp : s.PHASE = .run) (a : Byte) :
    exec (.rds a) s = .next (respond (cellS s.S a) s) := by
  rw [exec, execRds, whenPhase_same hp]

/-- Outside `RUN`, `RDS a` raises `WrongPhase` (44_observation.md R202). -/
theorem exec_rds_of_not_run {s : State} (hp : s.PHASE ≠ .run) (a : Byte) :
    exec (.rds a) s = .next (raiseFault .wrongPhase s) := by
  rw [exec, execRds, whenPhase_other hp]

theorem exec_rdrStatus (s : State) : exec .rdrStatus s = .next (respond (statusByte s) s) := rfl
theorem exec_rdrI (s : State) : exec .rdrI s = .next (respond s.I s) := rfl
theorem exec_rdrJ (s : State) : exec .rdrJ s = .next (respond s.J s) := rfl
theorem exec_rdrKlenl (s : State) : exec .rdrKlenl s = .next (respond (klenLow s) s) := rfl
theorem exec_rdrKlenh (s : State) : exec .rdrKlenh s = .next (respond (klenHigh s) s) := rfl

/-- Settles O27: by the phase; in `RUN` the cell holds a value, so the answer is that value. -/
theorem rdsReadsOneCell : Obligations.RdsReadsOneCell := by
  refine ⟨fun a => Laws.decode_encode (.rds a), fun s a v hp hv => ?_, fun s a hp => ?_⟩
  · rw [exec_rds_of_run hp, cellS_of_read hv, respond_eq]
  · rw [exec_rds_of_not_run hp, raiseFault_wrongPhase]

/-- Settles O28: the decoder on the opcode of `RDR`, then the five answers with the views as numbers. -/
theorem rdrReadsTheRegisters : Obligations.RdrReadsTheRegisters := by
  refine ⟨Laws.decode_encode .rdrStatus, Laws.decode_encode .rdrI, Laws.decode_encode .rdrJ,
    Laws.decode_encode .rdrKlenl, Laws.decode_encode .rdrKlenh, fun arg harg => ?_,
    fun s => ⟨?_, exec_rdrI s, exec_rdrJ s, ?_, ?_⟩⟩
  · have hd : decode (wordOf 0x07#8 arg) = .error .registerNumber :=
      (Laws.decode_wordOf_rdr arg).trans (Laws.decodeRegister_of_ge harg)
    exact ⟨hd, fun s rest hin => ⟨_, (step_of_word hin).trans (acceptWord_of_error hd _), rfl⟩⟩
  · rw [exec_rdrStatus, respond_eq, okWord_eq_ofNat, statusByte_toNat]
    cases s.PHASE <;> rfl
  · rw [exec_rdrKlenl, respond_eq, okWord_eq_ofNat, klenLow_toNat]
  · rw [exec_rdrKlenh, respond_eq, okWord_eq_ofNat, klenHigh_toNat]

/-- Settles O29: `STATUS` by its six values, the cursors by Invariant C, and the two parts of `KLEN` as its quotient
and remainder by 256. -/
theorem rdrValuesAreInTheirRanges : Obligations.RdrValuesAreInTheirRanges := by
  refine ⟨fun s => ⟨_, _, exec_rdrStatus s, rfl, statusByte_mem s⟩, fun s hs hp => ?_, fun s => ?_⟩
  · obtain ⟨hI, hJ⟩ := hs.cursors hp
    rw [exec_rdrI, exec_rdrJ, respond_eq, respond_eq, hI, hJ]
    exact ⟨rfl, rfl⟩
  · have hlt : s.KLEN.val < 257 := s.KLEN.isLt
    have hlow := klenLow_toNat s
    have hhigh := klenHigh_toNat s
    refine ⟨_, _, _, _, exec_rdrKlenl s, rfl, exec_rdrKlenh s, rfl, by omega, by omega, fun hhi => ?_⟩
    have hone : (klenHigh s).toNat = 1 := by rw [hhi]; rfl
    have hzero : (klenLow s).toNat = 0 := by omega
    exact ⟨by omega, BitVec.eq_of_toNat_eq hzero⟩

/-! ### An observation disturbs nothing -/

/-- An admitted observation command changes nothing and answers `OK` (44_observation.md R200). -/
theorem exec_observation {s : State} {o : Instr}
    (ho : o = .rdrStatus ∨ o = .rdrI ∨ o = .rdrJ ∨ o = .rdrKlenl ∨ o = .rdrKlenh ∨
      (s.PHASE = .run ∧ ∃ a, o = .rds a)) :
    ∃ d, exec o s = .next (respond d s) := by
  obtain rfl | rfl | rfl | rfl | rfl | ⟨hp, a, rfl⟩ := ho
  · exact ⟨_, exec_rdrStatus s⟩
  · exact ⟨_, exec_rdrI s⟩
  · exact ⟨_, exec_rdrJ s⟩
  · exact ⟨_, exec_rdrKlenl s⟩
  · exact ⟨_, exec_rdrKlenh s⟩
  · exact ⟨_, exec_rds_of_run hp a⟩

/-- After the responses `out` in `t` and `out'` in `t'`, one and the same word is delivered, and the two states are
equal in everything else. -/
def SameAnswerAfter (out out' : List RspWord) (t t' : State) : Prop :=
  ∃ (u : State) (r : RspWord), t = { u with output := out ++ [r] } ∧ t' = { u with output := out' ++ [r] }

theorem sameAnswerAfter_respond (d : Byte) (s : State) (out : List RspWord) :
    SameAnswerAfter s.output out (respond d s) (respond d { s with output := out }) :=
  ⟨s, _, rfl, rfl⟩

theorem sameAnswerAfter_raiseFault (c : FaultCause) (s : State) (out : List RspWord) :
    SameAnswerAfter s.output out (raiseFault c s) (raiseFault c { s with output := out }) := by
  cases c with
  | invalidKey | wrongPhase | illegalCommand => exact ⟨_, _, rfl, rfl⟩

/-- Appending a key byte reads no delivered response. -/
theorem appendKeyByte_withOutput (b : Byte) (s : State) (out : List RspWord) :
    appendKeyByte b { s with output := out } = { appendKeyByte b s with output := out } := by
  by_cases h : s.KLEN.val < Config.KBUF
  · rw [appendKeyByte_of_lt b h, appendKeyByte_of_lt b (s := { s with output := out }) h]
  · rw [appendKeyByte_of_ge b h, appendKeyByte_of_ge b (s := { s with output := out }) h]

/-- No command reads the responses delivered before it (log entry 2): with others in their place it answers the same
word and leaves the same state but for them. -/
theorem exec_sameAnswerAfter (i : Instr) (s : State) (out : List RspWord) :
    ∃ t t', exec i s = .next t ∧ exec i { s with output := out } = .next t' ∧ SameAnswerAfter s.output out t t' := by
  have hfault := sameAnswerAfter_raiseFault .wrongPhase s out
  cases i with
  | clr => exact ⟨_, _, rfl, rfl, sameAnswerAfter_respond _ (startAfresh s) out⟩
  | keyb b =>
    unfold exec execKeyb
    refine whenPhase_related rfl ?_ hfault
    obtain ⟨-, -, -, -, -, -, hout⟩ := appendKeyByte_frame b s
    have hkeyb := sameAnswerAfter_respond 0x00#8 (appendKeyByte b s) out
    rwa [hout, ← appendKeyByte_withOutput] at hkeyb
  | ksa =>
    exact execKsa_related rfl rfl (sameAnswerAfter_raiseFault .invalidKey s out)
      (sameAnswerAfter_respond _ (runSchedule s) out) hfault
  | next | xorb _ =>
    simp only [exec, execNext, execXorb]
    exact whenPhase_related rfl (sameAnswerAfter_respond _ (generatorStep s) out) hfault
  | rds _ =>
    unfold exec execRds
    exact whenPhase_related rfl (sameAnswerAfter_respond _ s out) hfault
  | rdrStatus | rdrI | rdrJ | rdrKlenl | rdrKlenh => exact ⟨_, _, rfl, rfl, sameAnswerAfter_respond _ s out⟩

/-- Settles O30: the observation leaves one more delivered response, which no command reads. -/
theorem observationDisturbsNothing : Obligations.ObservationDisturbsNothing := by
  intro s o i ho
  obtain ⟨d, hobs⟩ := exec_observation ho
  obtain ⟨_, _, ht, ht', u, r, rfl, rfl⟩ := exec_sameAnswerAfter i s (s.output ++ [(0x00#8 ++ d : BitVec 16)])
  exact ⟨d, u, r, hobs, ht, ht'⟩

end Sys2Proof.Machine
end

section
/-! SUPPORT. Proofs for 60_exceptions.md: the illegal words and their number, what a command answers in each phase, the
exits from `FAILED`, and the instances of a platform. -/

namespace Sys2Proof.Laws

/-- The fields of an illegal word: an undefined opcode, a non-zero operand in format Z, or a register number above 4
(30_encoding.md R87, R88, R90). -/
def IllegalFields (op arg : Byte) : Prop :=
  (op = 0x00#8 ∨ 8 ≤ op.toNat) ∨ ((op = 0x01#8 ∨ op = 0x03#8 ∨ op = 0x04#8) ∧ arg ≠ 0x00#8) ∨
    (op = 0x07#8 ∧ 5 ≤ arg.toNat)

/-- The words that are not of the form of a format are those with illegal fields. -/
theorem wordWellFormed_wordOf_eq_false {op arg : Byte} :
    wordWellFormed (wordOf op arg) = false ↔ IllegalFields op arg := by
  rw [← Bool.not_eq_true, wordWellFormed_iff, opOf_wordOf, argOf_wordOf]
  simp only [IllegalFields, formatOf, ← BitVec.toNat_inj, BitVec.toNat_ofNat, ne_eq]
  split_ifs with hz hb hr
  · simp only [Option.some.injEq, exists_eq_left', Format.admits, beq_iff_eq]
    omega
  · simp only [Option.some.injEq, exists_eq_left', Format.admits, not_true_eq_false, false_iff]
    omega
  · simp only [Option.some.injEq, exists_eq_left', Format.admits, decide_eq_true_eq]
    omega
  · simp only [false_and, exists_false, not_false_eq_true, true_iff]
    omega

/-- The decoder rejects every word with illegal fields. -/
theorem decode_of_illegalFields {op arg : Byte} (h : IllegalFields op arg) :
    ∃ e, decode (wordOf op arg) = .error e := by
  cases hd : decode (wordOf op arg) with
  | error e => exact ⟨e, rfl⟩
  | ok i =>
    have hwf := wordWellFormed_encode i
    rw [encode_of_decode hd, wordWellFormed_wordOf_eq_false.2 h] at hwf
    cases hwf

/-! ### The number of illegal words -/

/-- The 65536 words, in order. -/
def allWords : List CmdWord := List.ofFn BitVec.ofFin

theorem length_allWords : allWords.length = 65536 := List.length_ofFn

theorem mem_allWords (w : CmdWord) : w ∈ allWords := List.mem_ofFn.2 ⟨w.toFin, rfl⟩

theorem nodup_allWords : allWords.Nodup :=
  List.nodup_ofFn.2 fun _ _ h => BitVec.ofFin.inj h

/-- The words that are not of the form of a format. -/
def illegalWords : List CmdWord := allWords.filter fun w => !wordWellFormed w

theorem nodup_illegalWords : illegalWords.Nodup := nodup_allWords.filter _

theorem wordOf_mem_illegalWords {op arg : Byte} : wordOf op arg ∈ illegalWords ↔ IllegalFields op arg := by
  simp [illegalWords, mem_allWords, wordWellFormed_wordOf_eq_false]

/-- The well-formed words are the 776 words of the commands (30_encoding.md R84). -/
theorem length_filter_wordWellFormed : (allWords.filter wordWellFormed).length = 776 := by
  obtain ⟨l, hl, hlen, hmem⟩ := thereAre776LegalWords
  have hperm : (allWords.filter wordWellFormed).Perm l :=
    (List.perm_ext_iff_of_nodup (nodup_allWords.filter _) hl).2 fun w => by
      rw [List.mem_filter, hmem, legalWordsAreTheFormats w]
      exact and_iff_right (mem_allWords w)
  rw [hperm.length_eq, hlen]

theorem length_illegalWords : illegalWords.length = 64760 := by
  have hsum := List.length_eq_length_filter_add (l := allWords) wordWellFormed
  rw [length_allWords, length_filter_wordWellFormed, ← illegalWords] at hsum
  omega

end Sys2Proof.Laws

namespace Sys2Proof.Machine

/-- Settles O4: with an empty port there is nothing to serve. -/
theorem idleInstanceKeepsItsState : Obligations.IdleInstanceKeepsItsState :=
  fun _ => step_of_idle

/-! ### `IllegalCommand` -/

/-- A word with illegal fields raises `IllegalCommand` in every phase (60_exceptions.md R223). -/
theorem step_of_illegalFields {s : State} {op arg : Byte} {rest : List HostEvent}
    (h : Laws.IllegalFields op arg) (hin : s.input = .command (wordOf op arg) :: rest) :
    step s = .next (raiseFault .illegalCommand (s.setInput rest)) := by
  obtain ⟨e, hd⟩ := Laws.decode_of_illegalFields h
  exact (step_of_word hin).trans (acceptWord_of_error hd _)

/-- Settles O6: the illegal words are those that the 776 well-formed ones leave of the 65536. -/
theorem illegalWordRaisesIllegalCommand : Obligations.IllegalWordRaisesIllegalCommand :=
  ⟨fun _ _ _ _ h hin => step_of_illegalFields h hin,
    Laws.illegalWords, Laws.nodup_illegalWords, Laws.length_illegalWords, fun _ _ => Laws.wordOf_mem_illegalWords⟩

/-- Settles O35: the decoder rejects the word before any phase is looked at, and the phase is tested before `KLEN`. -/
theorem faultPriority : Obligations.FaultPriority := by
  refine ⟨fun s arg rest harg hin => ?_, fun s rest hp hin => ?_⟩
  · exact step_of_illegalFields (.inr (.inl ⟨.inr (.inl rfl), harg⟩)) hin
  · have hload : s.PHASE ≠ .load := by rcases hp with hp | hp <;> simp [hp]
    exact (step_of_word hin).trans ((acceptWord_of_ok (Laws.decode_encode .ksa) _).trans (exec_ksa_of_not_load hload))

/-! ### What a command answers, by the admission table -/

/-- A command that the table does not admit raises `WrongPhase` (60_exceptions.md R222). -/
theorem exec_of_not_admitted {i : Instr} {s : State} (h : admitted i s.PHASE = false) :
    exec i s = .next (raiseFault .wrongPhase s) := by
  cases i with
  | clr | rdrStatus | rdrI | rdrJ | rdrKlenl | rdrKlenh => cases h
  | keyb b => exact exec_keyb_of_not_load (ne_of_beq_false h) b
  | ksa => exact exec_ksa_of_not_load (ne_of_beq_false h)
  | next => exact exec_next_of_not_run (ne_of_beq_false h)
  | xorb m => exact exec_xorb_of_not_run (ne_of_beq_false h) m
  | rds a => exact exec_rds_of_not_run (ne_of_beq_false h) a

/-- A command that the table admits has its effect (60_exceptions.md R222). -/
theorem exec_of_admitted {i : Instr} {s : State} (h : admitted i s.PHASE = true) :
    ∃ t, exec i s = .next t ∧ Effect s i t := by
  cases i with
  | clr => exact ⟨_, rfl, .clr⟩
  | keyb b => exact ⟨_, exec_keyb_of_load (eq_of_beq h) b, .keyb b (eq_of_beq h)⟩
  | ksa =>
    by_cases hk : s.KLEN.val = 0
    · exact ⟨_, exec_ksa_of_empty (eq_of_beq h) hk, .ksaEmpty (eq_of_beq h) hk⟩
    · exact ⟨_, exec_ksa_of_key (eq_of_beq h) hk, .ksa (eq_of_beq h) hk⟩
  | next => exact ⟨_, exec_next_of_run (eq_of_beq h), .next (eq_of_beq h)⟩
  | xorb m => exact ⟨_, exec_xorb_of_run (eq_of_beq h) m, .xorb m (eq_of_beq h)⟩
  | rds a => exact ⟨_, exec_rds_of_run (eq_of_beq h) a, .rds a (eq_of_beq h)⟩
  | rdrStatus => exact ⟨_, rfl, .rdrStatus⟩
  | rdrI => exact ⟨_, rfl, .rdrI⟩
  | rdrJ => exact ⟨_, rfl, .rdrJ⟩
  | rdrKlenl => exact ⟨_, rfl, .rdrKlenl⟩
  | rdrKlenh => exact ⟨_, rfl, .rdrKlenh⟩

/-- An admitted command leaves the phase of the table (60_exceptions.md R232). -/
theorem Effect.phase_eq {s t : State} {i : Instr} (h : Effect s i t) :
    t.PHASE = phaseAfter i s.PHASE (s.KLEN.val == 0) := by
  cases h with
  | keyb b _ => obtain ⟨-, -, -, hph, -, -, -⟩ := appendKeyByte_frame b s; exact hph
  | ksaEmpty hp hk => simp [phaseAfter, hp, hk, raiseFault_invalidKey]
  | ksa hp hk => simp [phaseAfter, hp, hk, respond_eq, runSchedule_eq]
  | _ => rfl

/-- A command that the table does not admit leaves the phase (60_exceptions.md R232). -/
theorem phaseAfter_of_not_admitted {i : Instr} {p : Phase} (h : admitted i p = false) (emptyKey : Bool) :
    p = phaseAfter i p emptyKey := by
  cases i with
  | clr => cases h
  | ksa =>
    cases p with
    | load => cases h
    | run | failed => rfl
  | _ => rfl

/-- In `FAILED` only `CLR` changes the phase (60_exceptions.md R221). -/
theorem phaseAfter_failed (i : Instr) (emptyKey : Bool) : i = .clr ∨ phaseAfter i .failed emptyKey = .failed := by
  cases i with
  | clr => exact .inl rfl
  | _ => exact .inr rfl

/-- The three answers of a command, each with when it is given and what it does to the state. -/
inductive Answer (s : State) : Instr → State → Prop where
  | ok {i : Instr} {t : State} (d : Byte) (ha : admitted i s.PHASE = true) (hk : ¬(i = .ksa ∧ s.KLEN.val = 0))
    (ho : t.output = s.output ++ [responseWord 0x00#8 d])
    (hp : t.PHASE = phaseAfter i s.PHASE (s.KLEN.val == 0)) : Answer s i t
  | invalidKey (hp : s.PHASE = .load) (hk : s.KLEN.val = 0) : Answer s .ksa (raiseFault .invalidKey s)
  | wrongPhase {i : Instr} (ha : admitted i s.PHASE = false) : Answer s i (raiseFault .wrongPhase s)

/-- An admitted command answers `OK`, but for `KSA` without a key. -/
theorem Effect.toAnswer {s t : State} {i : Instr} (ha : admitted i s.PHASE = true) (h : Effect s i t) :
    Answer s i t := by
  have hp := h.phase_eq
  cases h with
  | keyb b _ =>
    obtain ⟨-, -, -, -, -, -, hout⟩ := appendKeyByte_frame b s
    exact .ok 0x00#8 ha nofun (congrArg (· ++ _) hout) hp
  | ksaEmpty hl hk => exact .invalidKey hl hk
  | ksa _ hk => exact .ok 0x00#8 ha (fun h => hk h.2) rfl hp
  | _ => exact .ok _ ha nofun rfl hp

/-- Every command gives one of the three answers, in every state (60_exceptions.md R225). -/
theorem exec_answer (i : Instr) (s : State) : ∃ t, exec i s = .next t ∧ Answer s i t := by
  cases ha : admitted i s.PHASE with
  | true =>
    obtain ⟨t, he, heff⟩ := exec_of_admitted ha
    exact ⟨t, he, heff.toAnswer ha⟩
  | false => exact ⟨_, exec_of_not_admitted ha, .wrongPhase ha⟩

/-- The word of an `OK` answer is no fault response. -/
theorem okWord_ne {w : RspWord} (hw : codeOf w ≠ 0x00#8) (d : Byte) : responseWord 0x00#8 d ≠ w := by
  rintro rfl
  exact hw (codeOf_responseWord _ _)

/-- Settles O32: the three answers, told apart by their words. -/
theorem outOfPhaseCommandsAreRefused : Obligations.OutOfPhaseCommandsAreRefused := by
  refine ⟨fun s i ha => exec_of_not_admitted ha, fun s i ha => ?_⟩
  obtain ⟨t, he, hans⟩ := exec_answer i s
  cases hans with
  | ok d _ hk ho _ => exact ⟨t, _, he, ho, okWord_ne (by decide) d, iff_of_false (okWord_ne (by decide) d) hk⟩
  | invalidKey _ hk => exact ⟨_, _, he, rfl, by decide, iff_of_true rfl ⟨rfl, hk⟩⟩
  | wrongPhase ha' => simp [ha'] at ha

/-- Settles O33: each answer has the code of the table, and a refusal keeps the phase. -/
theorem phaseMachineFollowsTheTable : Obligations.PhaseMachineFollowsTheTable := by
  intro s i
  obtain ⟨t, he, hans⟩ := exec_answer i s
  cases hans with
  | ok d ha hk ho hp =>
    have hcode : codeAnswered i s.PHASE (s.KLEN.val == 0) = 0x00#8 := by
      simp only [codeAnswered, ha, Bool.true_eq_false, if_false, beq_iff_eq, if_neg hk]
    exact ⟨t, d, he, hcode ▸ ho, hp⟩
  | invalidKey hp hk =>
    have hcode : codeAnswered .ksa s.PHASE (s.KLEN.val == 0) = 0x01#8 := by simp [codeAnswered, admitted, hp, hk]
    exact ⟨_, 0x00#8, he, hcode ▸ rfl, (Effect.ksaEmpty hp hk).phase_eq⟩
  | wrongPhase ha =>
    have hcode : codeAnswered i s.PHASE (s.KLEN.val == 0) = 0x02#8 := by simp [codeAnswered, ha]
    exact ⟨_, 0x00#8, he, hcode ▸ rfl, phaseAfter_of_not_admitted ha _⟩

/-- Settles O34: the two faults of a command with their whole effect. -/
theorem faultResponsesArePrecise : Obligations.FaultResponsesArePrecise := by
  intro s i
  obtain ⟨t, he, hans⟩ := exec_answer i s
  cases hans with
  | ok d _ _ ho _ => exact ⟨t, _, he, ho, .inl (codeOf_responseWord _ _)⟩
  | invalidKey hp hk => exact ⟨_, _, he, rfl, .inr (.inl ⟨rfl, rfl, hp, hk, rfl⟩)⟩
  | wrongPhase ha => exact ⟨_, _, he, rfl, .inr (.inr ⟨rfl, ha, rfl⟩)⟩

/-! ### `InvalidKey` and the phase `FAILED` -/

/-- The commands that `FAILED` admits (60_exceptions.md R221). -/
theorem admitted_failed_iff {i : Instr} : admitted i .failed = true ↔
    i = .clr ∨ i = .rdrStatus ∨ i = .rdrI ∨ i = .rdrJ ∨ i = .rdrKlenl ∨ i = .rdrKlenh := by
  cases i <;> simp [admitted]

/-- Settles O31: which of the three answers is 0x0100, and which are given in `FAILED`. -/
theorem invalidKeyInFull : Obligations.InvalidKeyInFull := by
  refine ⟨fun s hp hk => exec_ksa_of_empty hp hk, fun s i t he ho => ?_, fun s i hp => ?_⟩
  · obtain ⟨t', he', hans⟩ := exec_answer i s
    obtain rfl : t' = t := by simpa [he'] using he
    cases hans with
    | ok d _ _ ho' _ => exact absurd (by simpa [ho'] using ho) (okWord_ne (by decide) d)
    | invalidKey hp hk => exact ⟨rfl, hp, hk⟩
    | wrongPhase _ => simp [raiseFault_wrongPhase] at ho
  · simp only [← admitted_failed_iff]
    obtain ⟨t, he, hans⟩ := exec_answer i s
    cases hans with
    | ok d ha _ ho hph =>
      rw [hp] at ha hph
      rw [if_pos ha]
      exact ⟨t, d, he, ho, (phaseAfter_failed i _).imp_right hph.trans⟩
    | invalidKey hl _ => simp [hl] at hp
    | wrongPhase ha =>
      rw [hp] at ha
      rwa [if_neg (by simp [ha])]

/-- A new call starts from the reset state but for the two ports (60_exceptions.md R236). -/
theorem step_of_startsNewCall {s t : State} (hs : StartsNewCall s) (h : step s = .next t) :
    t = { State.reset with input := t.input, output := t.output } := by
  rcases hs with ⟨rest, hin⟩ | ⟨rest, hin⟩ | ⟨w, rest, hin⟩
  · cases ((step_of_word hin).trans (acceptWord_of_ok (Laws.decode_encode .clr) _)).symm.trans h
    rfl
  · cases (step_of_reset hin).symm.trans h
    rfl
  · cases (step_of_resetDuring hin).symm.trans h
    rfl

/-- Settles O36: `RUN` is entered from `LOAD` alone, so the step starts a new call. -/
theorem failedIsLeftOnlyByClrOrReset : Obligations.FailedIsLeftOnlyByClrOrReset := by
  intro s t h hs ht
  obtain ⟨hrun, -, hload⟩ := phasesAreEnteredOnlyAsStated s t h (hs ▸ ht.symm)
  have hp : t.PHASE = .load := by
    cases hp : t.PHASE with
    | load => rfl
    | run => exact absurd (hs.symm.trans (hrun hp).1) nofun
    | failed => exact absurd hp ht
  refine ⟨hload hp, hp, ?_⟩
  rw [step_of_startsNewCall (hload hp) h]
  exact ⟨rfl, rfl⟩

/-! ### Instances -/

/-- A step in place `n` of the platform writes that place alone (60_exceptions.md R248). -/
theorem eq_set_of_stepInstance {n : Nat} {p q : Platform} (h : stepInstance n p = some q) : ∃ t, q = p.set n t := by
  simp only [stepInstance, Option.bind_eq_some_iff, Option.map_eq_some_iff] at h
  obtain ⟨_, -, t, -, rfl⟩ := h
  exact ⟨t, rfl⟩

/-- A step in place `m` of the platform neither reads nor writes another place `n` (60_exceptions.md R248). -/
theorem stepInstance_set_ne {m n : Nat} (hne : m ≠ n) (p : Platform) (t : State) :
    stepInstance m (p.set n t) = (stepInstance m p).map fun q => q.set n t := by
  simp only [stepInstance, List.getElem?_set_ne hne.symm, Option.map_bind, Function.comp_def, Option.map_map,
    List.set_comm _ _ hne.symm]

/-- Settles O50: two instances are two places of the list, and writes to different places commute. -/
theorem instancesShareNothing : Obligations.InstancesShareNothing := by
  refine ⟨fun n p q h => ?_, fun m n p hne => ?_⟩
  · obtain ⟨t, rfl⟩ := eq_set_of_stepInstance h
    exact ⟨List.length_set, fun m hm => List.getElem?_set_ne hm.symm⟩
  · cases hn : stepInstance n p with
    | none =>
      cases hm : stepInstance m p with
      | none => rfl
      | some r =>
        obtain ⟨u, rfl⟩ := eq_set_of_stepInstance hm
        simp [stepInstance_set_ne hne.symm, hn]
    | some q =>
      obtain ⟨t, rfl⟩ := eq_set_of_stepInstance hn
      cases hm : stepInstance m p with
      | none => simp [stepInstance_set_ne hne, hm]
      | some r =>
        obtain ⟨u, rfl⟩ := eq_set_of_stepInstance hm
        simp [stepInstance_set_ne hne, stepInstance_set_ne hne.symm, hm, hn, List.set_comm _ _ hne]

end Sys2Proof.Machine
end

section
/-! SUPPORT. Proofs for 70_reset_and_hazards.md: what a reset leaves, between two commands and during one. -/

namespace Sys2Proof.Machine

/-- A reset leaves the reset state but for the two ports, which are the model's own (70_reset_and_hazards.md R260). -/
theorem resetEvent_eq (s : State) :
    resetEvent s = { State.reset with input := s.input, output := s.output } := by
  rw [resetEvent, startAfresh_eq]

/-- Nothing of the abandoned command is left: the reset is the whole effect (70_reset_and_hazards.md R261). -/
theorem abandonCommand_eq_resetEvent (w : CmdWord) (s : State) : abandonCommand w s = resetEvent s := rfl

/-- Settles O2: the event at the head of the port, the empty port of the reset state, and the effect of `CLR`. -/
theorem resetEventIsTotal : Obligations.ResetEventIsTotal := by
  refine ⟨fun s rest hin => ?_, step_of_idle rfl, exec_clr⟩
  rw [step_of_reset hin, resetEvent_eq, State.setInput_input, State.setInput_output]

/-- Settles O3: abandoning the command is the reset alone, so the word has no part in the next state. -/
theorem resetDuringACommandLosesItsResponse : Obligations.ResetDuringACommandLosesItsResponse := by
  intro s w rest hin
  rw [step_of_resetDuring hin, abandonCommand_eq_resetEvent, resetEvent_eq, State.setInput_input,
    State.setInput_output]

end Sys2Proof.Machine
end
